-- ==== Sys2Proof/Word.lean ====
section
/-! DEFINITION. The plain types the data book counts in: levels of the two wires and of the pins, bytes of the
local port, the numbered things of chapters 1 to 10, and tables of a fixed number of like things. -/

namespace Sys2Proof

/-- One byte of a local port transaction (R174). -/
abbrev Byte := BitVec 8

/-- A two-byte number of the local port, and the accepted-frame number, which wraps from 65535 to 0 (R47). -/
abbrev Word16 := BitVec 16

/-- A notice tag or a HELLO key: the 11-beat key field of a contention word (R25). -/
abbrev Tag := BitVec 11

/-- The 4-beat urgency field of a contention word (R25). -/
abbrev Urgency := BitVec 4

/-- A delivery rank, 0 (first) to 15 (R150). -/
abbrev Rank := BitVec 4

/-- A station number 0 to 31 (R2). -/
abbrev StationNo := Fin 32

/-- A line number 0 to 47. -/
abbrev LineNo := Fin 48

/-- An index of the sixteen source records: 0 to 11 are P0 to P11, 12 to 15 are S0 to S3 (R77). -/
abbrev SourceNo := Fin 16

/-- A pin number, P0 to P11 (R79). -/
abbrev PinNo := Fin 12

/-- An index of the filter list (R137). -/
abbrev FilterNo := Fin 16

/-- A handle of the transmit list (R124). -/
abbrev Handle := Fin 4

/-- An index of the 52 delivery sources (R150). -/
abbrev DeliveryNo := Fin 52

/-- A level of SLD or SLB: dominant is the wire pulled low (conventions of 00_scope.md). -/
inductive Level where
  | dominant
  | recessive
deriving DecidableEq, Repr

/-- The level a station drives: dominant when it pulls the wire low. -/
def Level.pull (b : Bool) : Level := if b then .dominant else .recessive

/-- Whether a level is dominant. -/
def Level.low : Level → Bool
  | .dominant => true
  | .recessive => false

/-- The binary value of a beat: 0 for dominant, 1 for recessive (R25, R34). -/
def Level.bit : Level → Bool
  | .dominant => false
  | .recessive => true

/-- The level that stands for a binary value (R25). -/
def Level.ofBit (b : Bool) : Level := if b then .recessive else .dominant

/-- The level at a pin P0 to P11 (R79). -/
inductive PinLevel where
  | high
  | low
deriving DecidableEq, Repr

/-- A fixed number of like things, indexed from 0. -/
abbrev Table (α : Type) (n : Nat) := Vector α n

/-- The table whose entry `k` is `f k`. -/
abbrev Table.of {α : Type} {n : Nat} (f : Fin n → α) : Table α n := Vector.ofFn f

/-- The table with one entry replaced. -/
def Table.put {α : Type} {n : Nat} (t : Table α n) (k : Fin n) (x : α) : Table α n :=
  Table.of fun i => if i = k then x else t[i]

end Sys2Proof
end

