-- ==== Sys2Proof/Config.lean ====
section
/-! DEFINITION. What the data book leaves open and the machine goes on from: free values, constants with no body,
so that no proof can see which value they take. -/

namespace Sys2Proof

/-- R76: between the membership unit's records and the claim unit's records of one event, either may stand first.
`eventOrder n` is the `n`-th such choice: true puts the membership unit's next record first. A free value
(assumption 2). -/
opaque Config.eventOrder : Nat → Bool

/-- R60: the HELLO key generator advances with every period of the reference clock, and the commands do not say how
many periods pass between them. `elapsedClocks n` is how many passed before the `n`-th reading. A free value
(assumption 3). -/
opaque Config.elapsedClocks : Nat → Nat

/-- R174: the local controller pulls LPS low and begins a transaction when it chooses. `lpsFalls n` says whether it does so in the
period that uses the `n`-th free value. A free value (assumption 14). -/
opaque Config.lpsFalls : Nat → Bool

/-- R174: the bit the local port reads from LPI at a rising edge of LPC before a command is taken: `lpiBit n` is the one read in the
period that uses the `n`-th free value. A free value (assumption 14). -/
opaque Config.lpiBit : Nat → Bool

/-- R182: LPS stands where the local controller holds it when a pin reset ends. `lpsLowAtReset n` says whether it is low at the end
of the pin reset that uses the `n`-th free value. A free value (assumption 15). -/
opaque Config.lpsLowAtReset : Nat → Bool

end Sys2Proof
end

