-- ==== Sys2Proof/Syntax.lean ====
section
/-! DEFINITION. The commands of the block: one constructor per row of spec/opcode_table.json. Local port commands carry
their argument bytes in the order of format table 11.7.5 of spec/11_configuration_and_the_local_port.md; an event at the wires or
the pins carries what the station reads there. -/

namespace Sys2Proof

/-- Where in a transaction LPS rises (R174, R176). -/
inductive CutPoint where
  /-- Before the command byte is complete: no command. -/
  | inCommandByte
  /-- After the command byte and before the last argument byte is complete: the command is discarded. -/
  | inArguments
  /-- After the command is taken, during the response: the response bytes not yet read are lost. -/
  | inResponse
  /-- After the last response byte, however long LPC has run on: the transaction ends and nothing is lost. -/
  | afterResponse
deriving DecidableEq, Repr

/-- Which mark the station saw (R19). -/
inductive MarkKind where
  | start
  | stop
deriving DecidableEq, Repr

/-- The commands. -/
inductive Instr where
  /-- IDENT (R178). -/
  | ident
  /-- STATUS (R179). -/
  | status
  /-- CONFIGURE STATION (R170): the nine bytes of the STATION section. -/
  | configureStation (keepalive holdLimit options rankA rankB rankTransmit rankStation policies defaultAction : Byte)
  /-- CONFIGURE LINE (R171). -/
  | configureLine (line role options rank urgency : Byte)
  /-- CONFIGURE SOURCE (R171). -/
  | configureSource (index line discipline pulseFrames polarity : Byte)
  /-- CONFIGURE FILTER (R171, R137). -/
  | configureFilter (index options : Byte) (first second : Word16) (sender action : Byte)
  /-- READ CONFIGURATION (R173). -/
  | readConfiguration (sect index : Byte)
  /-- JOIN (R57). -/
  | join
  /-- LEAVE (R63). -/
  | leave
  /-- RESET (R181). -/
  | reset
  /-- The rise of LPS after a taken RESET (R181). -/
  | resetAtLpsRise
  /-- Pin reset (R182), with the straps as they stand at its end (R2). -/
  | pinReset (stationNumber : StationNo) (beatRate : BitVec 2)
  /-- TAKE (R162). -/
  | take
  /-- FINISH NEWEST (R164). -/
  | finishNewest
  /-- FINISH with a token (R164). -/
  | finish (token : Byte)
  /-- MASK (R151). -/
  | mask (source : Byte)
  /-- UNMASK (R151). -/
  | unmask (source : Byte)
  /-- ASSERT SOURCE (R81). -/
  | assertSource (soft : Byte)
  /-- RELEASE SOURCE (R82). -/
  | releaseSource (soft : Byte)
  /-- POST NOTICE (R126). -/
  | postNotice (tag : Word16) (urgency length : Byte) (data : List Byte)
  /-- CANCEL NOTICE (R130). -/
  | cancelNotice (handle : Byte)
  /-- READ TRANSMIT LIST (R136). -/
  | readTransmitList
  /-- READ IMAGE (R102). -/
  | readImage (first count : Byte)
  /-- READ ROSTER (R180). -/
  | readRoster
  /-- READ SOURCES (R91). -/
  | readSources
  /-- READ QUEUES (R147). -/
  | readQueues
  /-- A command byte that names no command (R176). -/
  | unknownCommand
  /-- LPS rises and ends the transaction, early or past its response (R174, R176). -/
  | transactionCutShort (cut : CutPoint)
  /-- The level at a pin has stood unchanged for 1 µs (R79). -/
  | qualifiedLevelChange (pin : PinNo) (level : PinLevel)
  /-- The quiet count reaches 16 beat periods (R4). -/
  | mediumQuiet
  /-- The keepalive timer reaches the configured interval (R11). -/
  | keepaliveExpired
  /-- Both wires high for 2 beat periods since the last stop mark (R13). -/
  | guardPassed
  /-- The station makes a start mark from QUIET (R13). -/
  | openFrame
  /-- The station makes the start mark it asked for at the follow-on beat (R16). -/
  | followOnStart
  /-- A start mark is seen in QUIET (R5). -/
  | startObserved
  /-- A whole enter beat, with the level sampled in it (R23). -/
  | enterBeat (sample : Level)
  /-- The end of a round (R36). -/
  | roundEndedWithWinner
  /-- The end of the verdict beat, with the level sampled in it (R44, R46). -/
  | frameEnd (sample : Level)
  /-- The tally stands at 255 (R53). -/
  | withdrawal
  /-- The listening count stands at 2 (R60). -/
  | provingEntry
  /-- The absent count of a roster entry has passed 2 (R70). -/
  | peerLost (station : StationNo)
  /-- The pulse count of a source stands at 0 (R86). -/
  | pulseExpiry (source : SourceNo)
  /-- The hold counter of a line stands at the hold limit (R113). -/
  | holdLimitAbandon (line : LineNo)
  /-- The void count of an entry stands at 8 (R129). -/
  | noticeVoidedOut (handle : Handle)
  /-- The follow-on beat (R14). -/
  | followOnBeat
  /-- Both wires high after the closing beat (R15). -/
  | stopObserved
  /-- A start mark inside the frame up to the end of the verdict beat (R17). -/
  | frameBrokenByStart
  /-- A stop mark inside the frame up to the end of the verdict beat (R18). -/
  | frameBrokenByStop
  /-- A mark after the verdict beat and before the end of the closing beat (R19). -/
  | lateMark (mark : MarkKind)
  /-- A wire has been low for 1024 beat periods (R20). -/
  | mediumStuck
  /-- SLB falls during a frame (R6). -/
  | beatStart
  /-- SLB rises at the end of a beat, with the level sampled on SLD (R6, R7). -/
  | beatEnd (sample : Level)
deriving DecidableEq, Repr

end Sys2Proof
end

