-- ==== Sys2Proof/WellFormed.lean ====
section
/-! DEFINITION. The check of a command as a term. Every operand of every command is a byte, a pair of bytes or a number of
its own range, and any value of it is a command the sender can send (a value out of range is answered BAD_ARG); only
POST NOTICE carries a list, whose length its length byte decides. -/

namespace Sys2Proof

/-- How many data bytes the port reads after the length byte of POST NOTICE: as many as the length gives, and none for a
length above 8 (R174, R176). -/
def postedBytes (length : Byte) : Nat := if length.toNat ≤ 8 then length.toNat else 0

/-- A command is well formed when POST NOTICE carries exactly the data bytes its length byte announces. -/
def Instr.wellFormed : Instr → Bool
  | .postNotice _ _ length data => data.length == postedBytes length
  | .ident | .status | .configureStation .. | .configureLine .. | .configureSource .. | .configureFilter ..
  | .readConfiguration .. | .join | .leave | .reset | .resetAtLpsRise | .pinReset .. | .take | .finishNewest
  | .finish _ | .mask _ | .unmask _ | .assertSource _ | .releaseSource _ | .cancelNotice _ | .readTransmitList
  | .readImage .. | .readRoster | .readSources | .readQueues | .unknownCommand | .transactionCutShort _
  | .qualifiedLevelChange .. | .mediumQuiet | .keepaliveExpired | .guardPassed | .openFrame | .followOnStart
  | .startObserved | .enterBeat _ | .roundEndedWithWinner | .frameEnd _ | .withdrawal | .provingEntry | .peerLost _
  | .pulseExpiry _ | .holdLimitAbandon _ | .noticeVoidedOut _ | .followOnBeat | .stopObserved | .frameBrokenByStart
  | .frameBrokenByStop | .lateMark _ | .mediumStuck | .beatStart | .beatEnd _ => true

end Sys2Proof
end

