-- ==== Sys2Proof/Decode.lean ====
section
/-! DEFINITION. The table's bits. spec/opcode_table.json gives no row any bits, and no chapter gives the command bytes of the
local port a value (format table 11.7.5 names the commands and gives no code), so no word spells a command. -/

namespace Sys2Proof

/-- The command a word spells by the table's bits: none, since no row of the table gives bits (assumption 6). -/
def decodeTableWord (_nbits _w : Nat) : Option Instr := none

end Sys2Proof
end

