-- ==== Sys2Proof/Machine/State.lean ====
section
/-! DEFINITION. The state of the block, one structure for each of its nine blocks (00_scope.md, Functional Overview), and
the state right after a pin reset. -/

namespace Sys2Proof.Machine

open Sys2Proof

/-- The reasons a command could stop with a fault. The data book gives every command an effect in every state, so there is
none, and no meaning raises one (safe: nothing stops). -/
inductive Fault where
deriving DecidableEq, Repr

/-- The reasons a command could be turned away without a meaning. -/
inductive Refusal where
  /-- Raised only by an arm of `exec` whose command has no meaning yet; safe, since the run stops. -/
  | notModelled (mnemonic : String)
deriving DecidableEq, Repr

/-! ## Configuration record (chapter 11) -/

/-- How the in-service list bounds what is presentable (R156). -/
inductive Discipline where
  | nested
  | flat
deriving DecidableEq, Repr

/-- What a full receive queue does (R144). -/
inductive OverflowPolicy where
  | keepOld
  | keepNew
deriving DecidableEq, Repr

/-- What is done with a filtered notice (R139). -/
inductive FilterAction where
  | queueA
  | queueB
  | drop
deriving DecidableEq, Repr

/-- The STATION section (R170). -/
structure StationSection where
  keepalive : Byte
  holdLimit : Byte
  discipline : Discipline
  rotate : Bool
  hearOwn : Bool
  reportPeers : Bool
  attention : Bool
  rankA : Rank
  rankB : Rank
  rankTransmit : Rank
  rankStation : Rank
  policyA : OverflowPolicy
  policyB : OverflowPolicy
  defaultAction : FilterAction
deriving DecidableEq, Repr

/-- The STATION section after reset (R170). -/
def StationSection.reset : StationSection where
  keepalive := 10
  holdLimit := 32
  discipline := .nested
  rotate := false
  hearOwn := false
  reportPeers := true
  attention := true
  rankA := 15
  rankB := 15
  rankTransmit := 15
  rankStation := 15
  policyA := .keepOld
  policyB := .keepOld
  defaultAction := .drop

/-- What the station does with a line (R104). -/
inductive LineRole where
  | unused
  | watch
  | serve
deriving DecidableEq, Repr

/-- What makes a watched line pending (R104). -/
inductive Trigger where
  | edge
  | level
deriving DecidableEq, Repr

/-- A line subscription (R104). -/
structure Subscription where
  role : LineRole
  trigger : Trigger
  acknowledge : Bool
  rank : Rank
  urgency : Urgency
deriving DecidableEq, Repr

/-- A subscription after reset (R104). -/
def Subscription.reset : Subscription where
  role := .unused
  trigger := .edge
  acknowledge := false
  rank := 15
  urgency := 15

/-- The discipline of a source (R77). -/
inductive SourceDiscipline where
  | follow
  | pulse
  | untilServed
deriving DecidableEq, Repr

/-- The level of a pin that counts as active (R77). -/
inductive Polarity where
  | high
  | low
deriving DecidableEq, Repr

/-- The configured fields of a source record; line `none` is a disabled source (R77). -/
structure SourceConfig where
  line : Option LineNo
  discipline : SourceDiscipline
  pulseFrames : BitVec 4
  polarity : Polarity
deriving DecidableEq, Repr

/-- A source's configured fields after reset (R77). -/
def SourceConfig.reset : SourceConfig where
  line := none
  discipline := .follow
  pulseFrames := 1
  polarity := .high

/-- How the operands of a filter entry are read (R137). -/
inductive FilterForm where
  | range
  | pattern
deriving DecidableEq, Repr

/-- A filter entry; sender `none` is ANY (R137). -/
structure FilterEntry where
  enabled : Bool
  form : FilterForm
  first : Tag
  second : Tag
  sender : Option StationNo
  action : FilterAction
deriving DecidableEq, Repr

/-- A filter entry after reset (R137). -/
def FilterEntry.reset : FilterEntry where
  enabled := false
  form := .range
  first := 0
  second := 2047
  sender := none
  action := .drop

/-- The configuration record and its complete flag (R169). -/
structure Configuration where
  station : StationSection
  lines : Table Subscription 48
  sources : Table SourceConfig 16
  filters : Table FilterEntry 16
  complete : Bool
deriving DecidableEq, Repr

/-- The configuration record after reset (R169). -/
def Configuration.reset : Configuration where
  station := .reset
  lines := Table.of fun _ => .reset
  sources := Table.of fun _ => .reset
  filters := Table.of fun _ => .reset
  complete := false

/-! ## Line controller (chapters 1 to 3) -/

/-- The medium condition (R3). -/
inductive Medium where
  | unsynced
  | quiet
  | inFrame
  | stalled
deriving DecidableEq, Repr

/-- What the model sees of a timer: it does not run, it runs from its last restart, or it has reached its limit. The time it
has run is outside the model (assumption 4). -/
inductive TimerState where
  | stopped
  | running
  | reached
deriving DecidableEq, Repr

/-- Which beat of the frame is in progress or comes next (R8); `roundEnd` is the instant after a round's last beat, at which
the event *round ended with winner* is due (R36), and `closed` is the interval after the closing beat (R15). -/
inductive Phase where
  | noFrame
  | slots
  | enter
  | word
  | body
  | roundEnd
  | verdict
  | followOn
  | closing
  | closed
deriving DecidableEq, Repr

/-- The frame plan: what the station drives in its own roster slot and in the line, held and mark slots (R9). -/
structure FramePlan where
  roster : Level
  line : Table Level 48
  held : Table Level 48
  mark : Table Level 48
deriving DecidableEq, Repr

/-- The plan with every slot recessive. -/
def FramePlan.silent : FramePlan where
  roster := .recessive
  line := Table.of fun _ => .recessive
  held := Table.of fun _ => .recessive
  mark := Table.of fun _ => .recessive

/-- The slot samples of the current frame (R7). -/
structure SlotSamples where
  roster : Table Level 32
  line : Table Level 48
  held : Table Level 48
  mark : Table Level 48
deriving DecidableEq, Repr

/-- The slot samples cleared at a start mark (R5). That a cleared sample is recessive is the model's choice (assumption 27). -/
def SlotSamples.cleared : SlotSamples where
  roster := Table.of fun _ => .recessive
  line := Table.of fun _ => .recessive
  held := Table.of fun _ => .recessive
  mark := Table.of fun _ => .recessive

/-- The line controller: medium, beat generator, plan, samples, own drives on the two wires, follow-on request and timers. -/
structure LineController where
  medium : Medium
  phase : Phase
  beatCount : Nat
  plan : FramePlan
  lastAcceptedPlan : FramePlan
  samples : SlotSamples
  /-- The station drove the follow-on beat dominant and has not yet made or dropped that start mark (R14, R16). -/
  followOn : Bool
  /-- What the station drives on SLD (R1, R7). -/
  sld : Level
  /-- What the station drives on SLB (R1, R6). -/
  slb : Level
  /-- The quiet count (R4). -/
  quietTimer : TimerState
  /-- The guard count (R13). -/
  guardTimer : TimerState
  /-- The keepalive timer (R11). -/
  keepaliveTimer : TimerState
  /-- The stuck timer of the two wires (R20). -/
  stuckTimer : TimerState
deriving DecidableEq, Repr

/-- The idle line controller (R3), with the plan of the last accepted frame all recessive (R10). -/
def LineController.reset : LineController where
  medium := .unsynced
  phase := .noFrame
  beatCount := 0
  plan := .silent
  lastAcceptedPlan := .silent
  samples := .cleared
  followOn := false
  sld := .recessive
  slb := .recessive
  quietTimer := .stopped
  guardTimer := .stopped
  keepaliveTimer := .stopped
  stuckTimer := .stopped

/-- The kind field of a contention word; the fourth value belongs to no item (R25, R31). -/
inductive ItemKind where
  | claim
  | notice
  | hello
  | unassigned
deriving DecidableEq, Repr

/-- An item the station itself offers (R26). -/
inductive Item where
  | hello
  | claim (line : LineNo)
  | notice (handle : Handle)
deriving DecidableEq, Repr

/-- The station's part in the round in progress (R22). -/
inductive RoundRole where
  | contender
  | receiver
deriving DecidableEq, Repr

/-- A round winner record; `own` is the station's own offered item when it won (R36). -/
structure WinnerRecord where
  round : Nat
  kind : ItemKind
  urgency : Urgency
  key : Tag
  station : StationNo
  length : Nat
  data : List Byte
  own : Option Item
  error : Bool
deriving DecidableEq, Repr

/-- The contention state (R22): the sampled word and body hold the beats read so far, first beat first. -/
structure Contention where
  round : Nat
  role : RoundRole
  offered : Option Item
  word : List Level
  body : List Level
  check : BitVec 16
  driveFault : Bool
  checkFault : Bool
  formFault : Bool
  winners : List WinnerRecord
deriving DecidableEq, Repr

/-- The contention state emptied (R22, R38); the role and the check register of an emptied state are assumption 16's. -/
def Contention.empty : Contention where
  round := 0
  role := .receiver
  offered := none
  word := []
  body := []
  check := 0xFFFF
  driveFault := false
  checkFault := false
  formFault := false
  winners := []

/-- The error record of the frame in progress (R40). -/
structure ErrorRecord where
  driveFault : Bool
  checkFault : Bool
  formFault : Bool
  verdictDrive : Level
deriving DecidableEq, Repr

/-- The error record with all three marks absent (R40). -/
def ErrorRecord.clear : ErrorRecord where
  driveFault := false
  checkFault := false
  formFault := false
  verdictDrive := .recessive

/-- A frame's outcome at its end (R44). -/
inductive FrameOutcome where
  | accepted
  | voided
  | locallyDiscarded
deriving DecidableEq, Repr

/-! ## Membership unit (chapters 3 and 4) -/

/-- The link state (R55). -/
inductive LinkState where
  | detached
  | listening
  | proving
  | joined
  | leaving
  | stalled
  | withdrawn
deriving DecidableEq, Repr

/-- The state a stalled station remembers (R55, R66). -/
inductive Remembered where
  | listening
  | proving
  | joined
deriving DecidableEq, Repr

/-- The fault level (R49). -/
inductive FaultLevel where
  | clean
  | warned
  | muted
deriving DecidableEq, Repr

/-- Why a join was refused (R55). -/
inductive JoinRefusal where
  | numberTaken
  | twin
deriving DecidableEq, Repr

/-- A roster entry (R69). -/
structure RosterEntry where
  present : Bool
  absentCount : Nat
deriving DecidableEq, Repr

/-- A roster entry ABSENT with absent count 0 (R69). -/
def RosterEntry.absent : RosterEntry := ⟨false, 0⟩

/-- A station event: kind and argument (R73). -/
inductive StationEvent where
  | peerJoined (station : StationNo)
  | peerLost (station : StationNo)
  | levelChanged (level : FaultLevel)
  | linkChanged (link : LinkState)
  | joinRefused (reason : JoinRefusal)
  | abandoned (line : LineNo)
deriving DecidableEq, Repr

/-- A record of the station event queue (R73). -/
structure EventRecord where
  event : StationEvent
  frame : Word16
  laterLost : Bool
deriving DecidableEq, Repr

/-- The membership unit; `lastRefusal = none` is the reason NONE (R55). -/
structure Membership where
  link : LinkState
  tally : Nat
  level : FaultLevel
  listeningCount : Nat
  helloKey : Option Tag
  keyGenerator : BitVec 11
  remembered : Option Remembered
  lastRefusal : Option JoinRefusal
  roster : Table RosterEntry 32
  rosterBaseline : Bool
  events : List EventRecord
deriving DecidableEq, Repr

/-- The membership unit after pin reset (R55, R48, R49, R60). -/
def Membership.reset : Membership where
  link := .detached
  tally := 0
  level := .clean
  listeningCount := 0
  helloKey := none
  keyGenerator := 0
  remembered := none
  lastRefusal := none
  roster := Table.of fun _ => .absent
  rosterBaseline := true
  events := []

/-! ## Source unit (chapter 5) -/

/-- The running state of a source record (R78). `softActive` is read for a soft source, `filtered` for a pin source: the
filtered level of the pin, `none` while undetermined (R79). -/
structure SourceRun where
  holding : Bool
  again : Bool
  pulseCount : Nat
  drove : Bool
  softActive : Bool
  filtered : Option PinLevel
deriving DecidableEq, Repr

/-- The running state after reset (R78). -/
def SourceRun.reset : SourceRun where
  holding := false
  again := false
  pulseCount := 0
  drove := false
  softActive := false
  filtered := none

/-! ## Line image (chapter 6) -/

/-- The owner field of a line record; `nobody` is NONE (R92). -/
inductive Owner where
  | station (station : StationNo)
  | unknown
  | nobody
deriving DecidableEq, Repr

/-- A line record (R92). -/
structure LineRecord where
  asserted : Bool
  held : Bool
  marked : Bool
  owner : Owner
  rose : Bool
  fell : Bool
  lastChange : Word16
deriving DecidableEq, Repr

/-- A line record after reset (R92). -/
def LineRecord.reset : LineRecord where
  asserted := false
  held := false
  marked := false
  owner := .nobody
  rose := false
  fell := false
  lastChange := 0

/-- The line image (R92, R93). -/
structure Image where
  lines : Table LineRecord 48
  frameNumber : Word16
  baseline : Bool
deriving DecidableEq, Repr

/-- The line image after reset (R92, R93). -/
def Image.reset : Image where
  lines := Table.of fun _ => .reset
  frameNumber := 0
  baseline := true

/-! ## Claim unit (chapter 7) -/

/-- A claim record; only an OWNED record holds a hold counter other than 0 (R105). -/
inductive ClaimState where
  | idle
  | contending
  | won
  | owned (holdCounter : Nat)
  | releasing
deriving DecidableEq, Repr

/-- The claim records and the mark-owed flags (R105). -/
structure Claims where
  records : Table ClaimState 48
  markOwed : Table Bool 48
deriving DecidableEq, Repr

/-- The claim unit after reset (R105, R122). -/
def Claims.reset : Claims where
  records := Table.of fun _ => .idle
  markOwed := Table.of fun _ => false

/-! ## Notice sender (chapter 8) -/

/-- The outcome of a DONE entry (R124). -/
inductive NoticeOutcome where
  | sent
  | cancelled
  | voidedOut
deriving DecidableEq, Repr

/-- The state of a transmit entry that is not FREE (R124). -/
inductive EntryState where
  | waiting
  | contending
  | won
  | done (outcome : NoticeOutcome)
deriving DecidableEq, Repr

/-- A transmit entry that is not FREE; its length is the number of its data bytes (R124). -/
structure TransmitEntry where
  tag : Tag
  urgency : Urgency
  data : List Byte
  voidCount : Nat
  cancelRequested : Bool
  state : EntryState
deriving DecidableEq, Repr

/-- The transmit list (a FREE entry is `none`), the posting order and the report order, oldest first (R124, R125, R131). -/
structure Sender where
  entries : Table (Option TransmitEntry) 4
  posting : List Handle
  reports : List Handle
deriving DecidableEq, Repr

/-- The notice sender after reset (R124, R135). -/
def Sender.reset : Sender where
  entries := Table.of fun _ => none
  posting := []
  reports := []

/-! ## Notice receiver (chapter 9) -/

/-- A notice record of a receive queue (R142). -/
structure NoticeRecord where
  tag : Tag
  sender : StationNo
  urgency : Urgency
  length : Nat
  data : List Byte
  frame : Word16
  gap : Bool
deriving DecidableEq, Repr

/-- A receive queue, oldest record first (R142). -/
structure ReceiveQueue where
  records : List NoticeRecord
  lost : Nat
  gapPending : Bool
deriving DecidableEq, Repr

/-- A receive queue after reset (R142). -/
def ReceiveQueue.reset : ReceiveQueue := ⟨[], 0, false⟩

/-- The two receive queues (R142). -/
structure Receiver where
  queueA : ReceiveQueue
  queueB : ReceiveQueue
deriving DecidableEq, Repr

/-- The notice receiver after reset (R149). -/
def Receiver.reset : Receiver := ⟨.reset, .reset⟩

/-! ## Dispatch unit (chapter 10) -/

/-- The kind of a delivery (R150). -/
inductive DeliveryKind where
  | lineWatch
  | lineServe
  | notice
  | transmit
  | station
deriving DecidableEq, Repr

/-- The delivery sources by name (R150). -/
inductive DeliverySource where
  | line (line : LineNo)
  | noticeA
  | noticeB
  | transmit
  | station
deriving DecidableEq, Repr

/-- An entry of the in-service list (R160). -/
structure ServiceEntry where
  token : Byte
  source : DeliveryNo
  kind : DeliveryKind
  rank : Rank
  orphaned : Bool
deriving DecidableEq, Repr

/-- The dispatch unit and its output ATTN; the in-service list has its newest entry last, and a rotation pointer `none` is
START (R151, R153, R155, R157, R158, R159, R160, R161). -/
structure Dispatch where
  masks : Table Bool 52
  edgeFlags : Table Bool 48
  serveFlags : Table Bool 48
  inService : List ServiceEntry
  tokenCounter : Byte
  pointers : Table (Option DeliveryNo) 16
  withdrawn : Bool
  attnLow : Bool
deriving DecidableEq, Repr

/-- The dispatch unit after reset (R168, R158). -/
def Dispatch.reset : Dispatch where
  masks := Table.of fun _ => false
  edgeFlags := Table.of fun _ => false
  serveFlags := Table.of fun _ => false
  inService := []
  tokenCounter := 1
  pointers := Table.of fun _ => none
  withdrawn := false
  attnLow := false

/-! ## Local port (chapter 11) and the whole block -/

/-- What the station does with LPO: high impedance, or driven low or high (R174). -/
inductive LpoDrive where
  | released
  | low
  | high
deriving DecidableEq, Repr

/-- Where the local port stands in a transaction (R174): LPS high; LPS low since before the end of a pin reset, so that no transaction
begins before it has risen and fallen again (R182); LPS low with these bits of the command byte and the argument bytes read from LPI,
the first bit first; LPS low and the command taken. -/
inductive PortPhase where
  | closed
  | waiting
  | reading (bits : List Bool)
  | answering
deriving DecidableEq, Repr

/-- The local port: where it stands in a transaction, the status and response bytes of the answer to a taken command, the falling
edges of LPC since the command was taken, counted to one past the last bit, and whether the open transaction took RESET
(R174, R181). The drive of LPO is read off these (`LocalPort.lpo`). -/
structure LocalPort where
  phase : PortPhase
  response : List Byte
  edges : Nat
  resetTaken : Bool
deriving DecidableEq, Repr

/-- The local port with LPS high. -/
def LocalPort.idle : LocalPort := ⟨.closed, [], 0, false⟩

/-- The straps as latched at the last pin reset (R2). -/
structure Straps where
  stationNumber : StationNo
  beatRate : BitVec 2
deriving DecidableEq, Repr

/-- The station. `freeIndex` is the model's own field: the number of free values used so far, at which the opaque constants of
Config are read next. `pending` is the queue of commands, the next one first. -/
structure State where
  straps : Straps
  config : Configuration
  line : LineController
  contention : Contention
  errors : ErrorRecord
  membership : Membership
  sources : Table SourceRun 16
  image : Image
  claims : Claims
  sender : Sender
  receiver : Receiver
  dispatch : Dispatch
  port : LocalPort
  freeIndex : Nat
  pending : List Instr
deriving DecidableEq, Repr

/-- The station right after a pin reset (R182), with straps 0 and LPS high (assumption 1) and no command waiting. -/
def State.reset : State where
  straps := ⟨0, 0⟩
  config := .reset
  line := .reset
  contention := .empty
  errors := .clear
  membership := .reset
  sources := Table.of fun _ => .reset
  image := .reset
  claims := .reset
  sender := .reset
  receiver := .reset
  dispatch := .reset
  port := .idle
  freeIndex := 0
  pending := []

end Sys2Proof.Machine
end

