-- ==== Sys2Proof/Machine/Flags.lean ====
section
/-! DEFINITION. The flag computations: error record and verdict, tally and fault level, what is pending and presentable, ATTN
and the withdrawn flag. -/

namespace Sys2Proof.Machine

open Sys2Proof

/-! ## Verdict, tally and fault level (chapter 3) -/

/-- R40: the station has detected an error when any of the three marks is present. -/
def ErrorRecord.detected (e : ErrorRecord) : Bool := e.driveFault || e.checkFault || e.formFault

/-- R43: the verdict drive. -/
def verdictDrive (link : LinkState) (level : FaultLevel) (detected : Bool) : Level :=
  Level.pull (detected && level != .muted && (link == .proving || link == .joined || link == .leaving))

/-- R44: the outcome of a frame at the station. -/
def frameOutcome (sample : Level) (detected : Bool) : FrameOutcome :=
  match sample, detected with
  | .dominant, _ => .voided
  | .recessive, true => .locallyDiscarded
  | .recessive, false => .accepted

/-- R48: an increase of the tally saturates at 255. -/
def tallyRaised (tally by_ : Nat) : Nat := min 255 (tally + by_)

/-- R48: the tally after a frame end; the first row that applies counts. -/
def tallyAfter (outcome : FrameOutcome) (detected : Bool) (tally : Nat) : Nat :=
  if detected then tallyRaised tally 8
  else if outcome = .voided then tallyRaised tally 1
  else tally - 1

/-- R50: the level after a change of the tally. -/
def levelAfter (before : FaultLevel) (tally : Nat) : FaultLevel :=
  match before with
  | .clean => if 160 ≤ tally then .muted else if 96 ≤ tally then .warned else .clean
  | .warned => if 160 ≤ tally then .muted else if 64 ≤ tally then .warned else .clean
  | .muted => if 128 ≤ tally then .muted else if 64 ≤ tally then .warned else .clean

/-- R49: the pairs of level and tally that can stand. -/
def tallyInRange (level : FaultLevel) (tally : Nat) : Bool :=
  match level with
  | .clean => decide (tally ≤ 95)
  | .warned => decide (64 ≤ tally ∧ tally ≤ 159)
  | .muted => decide (128 ≤ tally ∧ tally ≤ 255)

/-- The link states in which a station takes part in a frame (01, start of frame; terms of 00_scope.md). -/
def LinkState.participates : LinkState → Bool
  | .listening | .proving | .joined | .leaving => true
  | .detached | .stalled | .withdrawn => false

/-- The link states in which the station may observe or open a frame (R5, R13). -/
def LinkState.mayStart : LinkState → Bool
  | .listening | .proving | .joined => true
  | .detached | .leaving | .stalled | .withdrawn => false

/-- R3: the line controller is idle in DETACHED and WITHDRAWN. -/
def LinkState.lineIdle : LinkState → Bool
  | .detached | .withdrawn => true
  | .listening | .proving | .joined | .leaving | .stalled => false

/-! ## Delivery sources (chapter 10) -/

/-- R150: the source of an index. -/
def deliverySource (d : DeliveryNo) : DeliverySource :=
  if h : d.val < 48 then .line ⟨d.val, h⟩
  else if d.val = 48 then .noticeA
  else if d.val = 49 then .noticeB
  else if d.val = 50 then .transmit
  else .station

/-- R150: the index of a line's source. -/
def lineDelivery (k : LineNo) : DeliveryNo := ⟨k.val, by omega⟩

/-- R150: the rank a source takes from the configuration. -/
def State.rankOf (s : State) (d : DeliveryNo) : Rank :=
  match deliverySource d with
  | .line k => s.config.lines[k].rank
  | .noticeA => s.config.station.rankA
  | .noticeB => s.config.station.rankB
  | .transmit => s.config.station.rankTransmit
  | .station => s.config.station.rankStation

/-- R150: the kind of a source's delivery. A line whose role is NONE is never pending, so it has no delivery. -/
def State.kindOf (s : State) (d : DeliveryNo) : DeliveryKind :=
  match deliverySource d with
  | .line k => if s.config.lines[k].role = .serve then .lineServe else .lineWatch
  | .noticeA => .notice
  | .noticeB => .notice
  | .transmit => .transmit
  | .station => .station

/-- R152 to R155: whether the source of line `k` is pending. -/
def State.linePending (s : State) (k : LineNo) : Bool :=
  match s.config.lines[k].role, s.config.lines[k].trigger with
  | .unused, _ => false
  | .watch, .edge => s.dispatch.edgeFlags[k]
  | .watch, .level => s.membership.link == .joined && s.image.lines[k].asserted
  | .serve, _ => s.dispatch.serveFlags[k]

/-- R152: whether a source is pending. -/
def State.sourcePending (s : State) (d : DeliveryNo) : Bool :=
  match deliverySource d with
  | .line k => s.linePending k
  | .noticeA => !s.receiver.queueA.records.isEmpty
  | .noticeB => !s.receiver.queueB.records.isEmpty
  | .transmit => !s.sender.reports.isEmpty
  | .station => !s.membership.events.isEmpty

/-- R156, last condition: NESTED bounds what is presentable by the newest entry's recorded rank. -/
def State.rankAllowed (s : State) (d : DeliveryNo) : Bool :=
  match s.config.station.discipline, s.dispatch.inService.getLast? with
  | .flat, _ => true
  | .nested, none => true
  | .nested, some e => decide (s.rankOf d < e.rank)

/-- R156: whether a source is presentable. -/
def State.presentable (s : State) (d : DeliveryNo) : Bool :=
  s.sourcePending d && !s.dispatch.masks[d]
    && !(s.dispatch.inService.any fun e => e.source == d)
    && decide (s.dispatch.inService.length < 4) && s.rankAllowed d

/-- The presentable sources in order of index. -/
def State.presentables (s : State) : List DeliveryNo := (List.finRange 52).filter s.presentable

/-- R158: ATTN is pulled low while a source is presentable and attention is on. -/
def State.attentionDue (s : State) : Bool := s.config.station.attention && !s.presentables.isEmpty

/-- R159: a source that was presentable before a step is not presentable after it. -/
def stoppedPresenting (before after : State) : Bool :=
  before.presentables.any fun d => !after.presentable d

/-- R158, R159: what every step does to the withdrawn flag and ATTN, from the states before and after it. -/
def settle (before after : State) : State :=
  { after with dispatch := { after.dispatch with
      withdrawn := after.dispatch.withdrawn || stoppedPresenting before after
      attnLow := after.attentionDue } }

/-- The next state of a step with ATTN and the withdrawn flag settled. -/
def complete (before after : State) : Host.Outcome State Fault Refusal := .next (settle before after)

end Sys2Proof.Machine
end

