-- ==== Sys2Proof/Machine/Operands.lean ====
section
/-! DEFINITION. The argument bytes of the local port commands, checked and read (R170, R171, R173, R137), and the bytes of
every answer (format tables 11.7.4 to 11.7.9). -/

namespace Sys2Proof.Machine

open Sys2Proof

/-! ## Codes (11.7.4) -/

/-- The status byte of an answer (R177). -/
inductive Status where
  | ok
  | empty
  | full
  | refused
  | badArg
  | deferred
  | orphaned
  | unknownToken
  | incomplete
  | unknownCommand
deriving DecidableEq, Repr

/-- The code of a status. -/
def Status.code : Status → Byte
  | .ok => 0x00
  | .empty => 0x01
  | .full => 0x02
  | .refused => 0x03
  | .badArg => 0x04
  | .deferred => 0x05
  | .orphaned => 0x06
  | .unknownToken => 0x07
  | .incomplete => 0x08
  | .unknownCommand => 0x09

/-- The code of a link state. -/
def LinkState.code : LinkState → Byte
  | .detached => 0
  | .listening => 1
  | .proving => 2
  | .joined => 3
  | .leaving => 4
  | .stalled => 5
  | .withdrawn => 6

/-- The code of a fault level. -/
def FaultLevel.code : FaultLevel → Byte
  | .clean => 0
  | .warned => 1
  | .muted => 2

/-- The code of a refusal reason. -/
def JoinRefusal.code : JoinRefusal → Byte
  | .numberTaken => 1
  | .twin => 2

/-- The code of the last refusal reason, NONE included. -/
def refusalCode : Option JoinRefusal → Byte
  | none => 0
  | some r => r.code

/-- The code of a delivery kind. -/
def DeliveryKind.code : DeliveryKind → Byte
  | .lineWatch => 0
  | .lineServe => 1
  | .notice => 2
  | .transmit => 3
  | .station => 4

/-- The code of a transmit outcome. -/
def NoticeOutcome.code : NoticeOutcome → Byte
  | .sent => 0
  | .cancelled => 1
  | .voidedOut => 2

/-- The code of a transmit state. -/
def entryStateCode : Option TransmitEntry → Byte
  | none => 0
  | some e => match e.state with
    | .waiting => 1
    | .contending => 2
    | .won => 3
    | .done _ => 4

/-- The code of an event kind. -/
def StationEvent.kindCode : StationEvent → Byte
  | .peerJoined _ => 0
  | .peerLost _ => 1
  | .levelChanged _ => 2
  | .linkChanged _ => 3
  | .joinRefused _ => 4
  | .abandoned _ => 5

/-- The argument byte of an event. -/
def StationEvent.argument : StationEvent → Byte
  | .peerJoined n => BitVec.ofNat 8 n.val
  | .peerLost n => BitVec.ofNat 8 n.val
  | .levelChanged l => l.code
  | .linkChanged l => l.code
  | .joinRefused r => r.code
  | .abandoned k => BitVec.ofNat 8 k.val

/-- A line or station field of which `none` is NONE or ANY, 3Fh. -/
def optionalCode {n : Nat} : Option (Fin n) → Byte
  | none => 0x3F
  | some k => BitVec.ofNat 8 k.val

/-- The owner field of an image record. -/
def Owner.code : Owner → Byte
  | .station n => BitVec.ofNat 8 n.val
  | .unknown => 0x3E
  | .nobody => 0x3F

/-- A flag byte. -/
def flagByte (b : Bool) : Byte := if b then 1 else 0

/-- Bit `i` of an options byte. -/
def flagAt (i : Nat) (b : Bool) : Byte := if b then BitVec.ofNat 8 (2 ^ i) else 0

/-- A two-byte number, the more significant byte first (R174). -/
def twoBytes (w : Word16) : List Byte := [w.extractLsb' 8 8, w.extractLsb' 0 8]

/-! ## Configuration entries (11.7.6) -/

/-- A number at most 15. -/
def readNibble (b : Byte) : Option (BitVec 4) := if b.toNat ≤ 15 then some (b.setWidth 4) else none

/-- A tag or operand at most 2047. -/
def readTag (w : Word16) : Option Tag := if w.toNat ≤ 2047 then some (w.setWidth 11) else none

/-- An index below `n`. -/
def readIndex (n : Nat) (b : Byte) : Option (Fin n) := if h : b.toNat < n then some ⟨b.toNat, h⟩ else none

/-- An index below `n`, or the code 3Fh for NONE or ANY. -/
def readOptionalIndex (n : Nat) (b : Byte) : Option (Option (Fin n)) :=
  if b = 0x3F then some none else (readIndex n b).map some

/-- A filter action or default action. -/
def readAction (b : Byte) : Option FilterAction :=
  if b = 0 then some .queueA else if b = 1 then some .queueB else if b = 2 then some .drop else none

/-- The role of a line. -/
def readRole (b : Byte) : Option LineRole :=
  if b = 0 then some .unused else if b = 1 then some .watch else if b = 2 then some .serve else none

/-- The discipline of a source. -/
def readDiscipline (b : Byte) : Option SourceDiscipline :=
  if b = 0 then some .follow else if b = 1 then some .pulse else if b = 2 then some .untilServed else none

/-- The polarity of a source. -/
def readPolarity (b : Byte) : Option Polarity :=
  if b = 0 then some .high else if b = 1 then some .low else none

/-- An options byte of `n` flags: a one in any other place is an unassigned value (R173). -/
def readOptions (n : Nat) (b : Byte) : Option Byte := if b.toNat < 2 ^ n then some b else none

/-- A number of 1 or more (keepalive and hold limit, R170). -/
def readPositive (b : Byte) : Option Byte := if b = 0 then none else some b

/-- R170: the STATION section from its nine bytes, or none where CONFIGURE STATION answers BAD_ARG. -/
def readStation (keepalive holdLimit options rankA rankB rankTransmit rankStation policies defaultAction : Byte) :
    Option StationSection := do
  let keepalive ← readPositive keepalive
  let holdLimit ← readPositive holdLimit
  let options ← readOptions 5 options
  let rankA ← readNibble rankA
  let rankB ← readNibble rankB
  let rankTransmit ← readNibble rankTransmit
  let rankStation ← readNibble rankStation
  let policies ← readOptions 2 policies
  let defaultAction ← readAction defaultAction
  return {
    keepalive, holdLimit
    discipline := if options[0] then .flat else .nested
    rotate := options[1]
    hearOwn := options[2]
    reportPeers := options[3]
    attention := options[4]
    rankA, rankB, rankTransmit, rankStation
    policyA := if policies[0] then .keepNew else .keepOld
    policyB := if policies[1] then .keepNew else .keepOld
    defaultAction }

/-- R171: a LINE entry and the line it names. -/
def readLine (line role options rank urgency : Byte) : Option (LineNo × Subscription) := do
  let line ← readIndex 48 line
  let role ← readRole role
  let options ← readOptions 2 options
  let rank ← readNibble rank
  let urgency ← readNibble urgency
  return (line, {
    role, rank, urgency
    trigger := if options[0] then .level else .edge
    acknowledge := options[1] })

/-- R171: a SOURCE entry and its index. -/
def readSource (index line discipline pulseFrames polarity : Byte) : Option (SourceNo × SourceConfig) := do
  let index ← readIndex 16 index
  let line ← readOptionalIndex 48 line
  let discipline ← readDiscipline discipline
  let pulseFrames ← readPositive pulseFrames
  let pulseFrames ← readNibble pulseFrames
  let polarity ← readPolarity polarity
  return (index, { line, discipline, pulseFrames, polarity })

/-- R171, R137: a FILTER entry and its index. -/
def readFilter (index options : Byte) (first second : Word16) (sender action : Byte) :
    Option (FilterNo × FilterEntry) := do
  let index ← readIndex 16 index
  let options ← readOptions 2 options
  let first ← readTag first
  let second ← readTag second
  let sender ← readOptionalIndex 32 sender
  let action ← readAction action
  let form := if options[1] then FilterForm.pattern else FilterForm.range
  if form = .range ∧ second < first then none
  else return (index, { enabled := options[0], form, first, second, sender, action })

/-- The code of a filter action. -/
def FilterAction.code : FilterAction → Byte
  | .queueA => 0
  | .queueB => 1
  | .drop => 2

/-- The STATION section in its CONFIGURE layout. -/
def StationSection.bytes (c : StationSection) : List Byte :=
  [c.keepalive, c.holdLimit,
    flagAt 0 (c.discipline == .flat) ||| flagAt 1 c.rotate ||| flagAt 2 c.hearOwn ||| flagAt 3 c.reportPeers
      ||| flagAt 4 c.attention,
    c.rankA.setWidth 8, c.rankB.setWidth 8, c.rankTransmit.setWidth 8, c.rankStation.setWidth 8,
    flagAt 0 (c.policyA == .keepNew) ||| flagAt 1 (c.policyB == .keepNew),
    c.defaultAction.code]

/-- The code of a role. -/
def LineRole.code : LineRole → Byte
  | .unused => 0
  | .watch => 1
  | .serve => 2

/-- A LINE entry in its CONFIGURE layout. -/
def Subscription.bytes (k : LineNo) (c : Subscription) : List Byte :=
  [BitVec.ofNat 8 k.val, c.role.code, flagAt 0 (c.trigger == .level) ||| flagAt 1 c.acknowledge,
    c.rank.setWidth 8, c.urgency.setWidth 8]

/-- The code of a source's discipline. -/
def SourceDiscipline.code : SourceDiscipline → Byte
  | .follow => 0
  | .pulse => 1
  | .untilServed => 2

/-- The code of a polarity. -/
def Polarity.code : Polarity → Byte
  | .high => 0
  | .low => 1

/-- A SOURCE entry in its CONFIGURE layout. -/
def SourceConfig.bytes (i : SourceNo) (c : SourceConfig) : List Byte :=
  [BitVec.ofNat 8 i.val, optionalCode c.line, c.discipline.code, c.pulseFrames.setWidth 8, c.polarity.code]

/-- A FILTER entry in its CONFIGURE layout. -/
def FilterEntry.bytes (i : FilterNo) (c : FilterEntry) : List Byte :=
  [BitVec.ofNat 8 i.val, flagAt 0 c.enabled ||| flagAt 1 (c.form == .pattern)]
    ++ twoBytes (c.first.setWidth 16) ++ twoBytes (c.second.setWidth 16) ++ [optionalCode c.sender, c.action.code]

/-- R173: the entry a READ CONFIGURATION names, in its CONFIGURE layout, or none for BAD_ARG. -/
def Configuration.entryBytes (c : Configuration) (sect index : Byte) : Option (List Byte) :=
  if sect = 0 then (readIndex 1 index).map fun _ => c.station.bytes
  else if sect = 1 then (readIndex 48 index).map fun k => c.lines[k].bytes k
  else if sect = 2 then (readIndex 16 index).map fun i => c.sources[i].bytes i
  else if sect = 3 then (readIndex 16 index).map fun i => c.filters[i].bytes i
  else none

/-! ## Records (11.7.7 to 11.7.9) -/

/-- R179: the status record. -/
def State.statusRecord (s : State) : List Byte :=
  [s.membership.link.code, s.membership.level.code, BitVec.ofNat 8 s.membership.tally,
    BitVec.ofNat 8 s.straps.stationNumber.val, s.straps.beatRate.setWidth 8]
    ++ twoBytes s.image.frameNumber
    ++ [BitVec.ofNat 8 s.dispatch.inService.length, BitVec.ofNat 8 s.presentables.length,
      BitVec.ofNat 8 s.receiver.queueA.records.length, BitVec.ofNat 8 s.receiver.queueB.records.length,
      (entryStateCode s.sender.entries[0] <<< 4) ||| entryStateCode s.sender.entries[1],
      (entryStateCode s.sender.entries[2] <<< 4) ||| entryStateCode s.sender.entries[3],
      flagAt 0 (s.membership.events.any (·.laterLost)) ||| flagAt 1 s.config.complete,
      refusalCode s.membership.lastRefusal]

/-- R102: an image record. -/
def LineRecord.bytes (k : LineNo) (r : LineRecord) : List Byte :=
  [BitVec.ofNat 8 k.val,
    flagAt 0 r.asserted ||| flagAt 1 r.held ||| flagAt 2 r.marked ||| flagAt 3 r.rose ||| flagAt 4 r.fell,
    r.owner.code] ++ twoBytes r.lastChange

/-- R180: a roster byte. -/
def RosterEntry.byte (e : RosterEntry) : Byte := flagAt 0 e.present ||| (BitVec.ofNat 8 e.absentCount <<< 1)

/-- R79: the qualified level of a pin read against the polarity, undetermined read as inactive. -/
def pinActive (polarity : Polarity) : Option PinLevel → Bool
  | none => false
  | some .high => polarity == .high
  | some .low => polarity == .low

/-- The level of a source: the qualified level for a pin source, the soft level for a soft source (R83, R91). -/
def sourceActive (i : SourceNo) (c : SourceConfig) (r : SourceRun) : Bool :=
  if i.val < 12 then pinActive c.polarity r.filtered else r.softActive

/-- R91: a source record. -/
def State.sourceBytes (s : State) (i : SourceNo) : List Byte :=
  let c := s.config.sources[i]
  let r := s.sources[i]
  [optionalCode c.line, c.discipline.code,
    flagAt 0 r.holding ||| flagAt 1 r.again ||| flagAt 2 r.drove ||| flagAt 3 (sourceActive i c r),
    BitVec.ofNat 8 r.pulseCount]

/-- The outcome byte of a transmit record: 0 while not DONE. -/
def EntryState.outcomeCode : EntryState → Byte
  | .done o => o.code
  | .waiting => 0
  | .contending => 0
  | .won => 0

/-- R136: a transmit record; every byte after the state of a FREE entry is 0. The report place is 1 for the oldest report and
0 while not DONE. -/
def State.transmitBytes (s : State) (h : Handle) : List Byte :=
  match s.sender.entries[h] with
  | none => List.replicate 9 0
  | some e =>
    [entryStateCode (some e)] ++ twoBytes (e.tag.setWidth 16)
      ++ [e.urgency.setWidth 8, BitVec.ofNat 8 e.data.length, BitVec.ofNat 8 e.voidCount, flagByte e.cancelRequested,
        e.state.outcomeCode, if h ∈ s.sender.reports then BitVec.ofNat 8 (s.sender.reports.idxOf h + 1) else 0]

/-- R162, 11.7.8: the payload of a notice delivery. -/
def NoticeRecord.payload (queue : Byte) (r : NoticeRecord) : List Byte :=
  [queue] ++ twoBytes (r.tag.setWidth 16)
    ++ [BitVec.ofNat 8 r.sender.val, r.urgency.setWidth 8, BitVec.ofNat 8 r.length] ++ twoBytes r.frame
    ++ [flagByte r.gap] ++ r.data

/-- R162, 11.7.8: the payload of a STATION delivery. -/
def EventRecord.payload (r : EventRecord) : List Byte :=
  [r.event.kindCode, r.event.argument] ++ twoBytes r.frame ++ [flagByte r.laterLost]

/-- R162, 11.7.8: the payload of a LINE_WATCH delivery. -/
def State.watchPayload (s : State) (k : LineNo) : List Byte :=
  [BitVec.ofNat 8 k.val, flagByte (s.config.lines[k].trigger == .level), flagByte s.image.lines[k].asserted]
    ++ twoBytes s.image.lines[k].lastChange ++ twoBytes s.image.frameNumber

/-- R162, 11.7.8: the payload of a LINE_SERVE delivery. -/
def State.servePayload (s : State) (k : LineNo) : List Byte := BitVec.ofNat 8 k.val :: twoBytes s.image.frameNumber

/-- R178: part number 4832, revision 1, 48 lines, 32 station numbers. -/
def identRecord : List Byte := twoBytes 4832 ++ [1, 48, 32]

end Sys2Proof.Machine
end

