-- ==== Sys2Proof/Machine/Ops.lean ====
section
/-! DEFINITION. The shared operations on the blocks' state: station events, the transmit list, roster, sources, image, claims,
receive queues, dispatch, the entries to DETACHED and WITHDRAWN, the resets and the local port's answer. -/

namespace Sys2Proof.Machine

open Sys2Proof

/-! ## Station event queue (4.6) -/

/-- R74: the newest record shows that later events were lost. -/
def markNewestLost : List EventRecord → List EventRecord
  | [] => []
  | [r] => [{ r with laterLost := true }]
  | r :: q => r :: markNewestLost q

/-- R74: a record is appended, or dropped with the newest record marked when the queue holds 8. -/
def appendEvent (q : List EventRecord) (r : EventRecord) : List EventRecord :=
  if q.length < 8 then q ++ [r] else markNewestLost q

/-- R74, R47: an event recorded with the present accepted-frame number. -/
def State.record (s : State) (e : StationEvent) : State :=
  { s with membership := { s.membership with events := appendEvent s.membership.events ⟨e, s.image.frameNumber, false⟩ } }

/-- Events recorded one after the other. -/
def State.recordAll (s : State) (es : List StationEvent) : State := es.foldl State.record s

/-- Two lists merged with the order inside each kept; `first n` says whether the first list goes next at choice `n`. -/
def interleave {α : Type} (first : Nat → Bool) : Nat → Nat → List α → List α → List α
  | fuel + 1, n, x :: xs, y :: ys =>
    if first n then x :: interleave first fuel (n + 1) xs (y :: ys) else y :: interleave first fuel (n + 1) (x :: xs) ys
  | _, _, xs, ys => xs ++ ys

/-- R76: the membership unit's records and the claim unit's records of one event, either first, each unit's in order. -/
def State.recordGroups (s : State) (member claim : List StationEvent) : State :=
  let n := member.length + claim.length
  { s with freeIndex := s.freeIndex + n }.recordAll (interleave Config.eventOrder n s.freeIndex member claim)

/-! ## Verdict logic on the state (chapter 3) -/

/-- R48, R50, R51: the tally takes a new value, the level is re-evaluated and a change of it is recorded. -/
def State.setTally (s : State) (tally : Nat) : State :=
  let level := levelAfter s.membership.level tally
  let s' := { s with membership := { s.membership with tally, level } }
  if level = s.membership.level then s' else s'.record (.levelChanged level)

/-- A link state written without its event. -/
def State.setLink (s : State) (l : LinkState) : State := { s with membership := { s.membership with link := l } }

/-- R56: a change of link state with its LINK event. -/
def State.changeLink (s : State) (l : LinkState) : State := (s.setLink l).record (.linkChanged l)

/-! ## Line controller -/

/-- R1, R3, R16: the line controller idle: wires released, no frame, no timer, no follow-on request. -/
def LineController.idle (c : LineController) : LineController :=
  { c with
    medium := .unsynced, phase := .noFrame, followOn := false, sld := .recessive, slb := .recessive
    quietTimer := .stopped, guardTimer := .stopped, keepaliveTimer := .stopped, stuckTimer := .stopped }

/-! ## Transmit list (chapter 8) -/

/-- One entry of the transmit list written. -/
def Sender.setEntry (t : Sender) (h : Handle) (e : Option TransmitEntry) : Sender :=
  { t with entries := t.entries.put h e }

/-- R131, R125: an entry becomes DONE: it leaves the posting order and is appended to the report order. -/
def Sender.done (t : Sender) (h : Handle) (e : TransmitEntry) (o : NoticeOutcome) : Sender :=
  { entries := t.entries.put h (some { e with state := .done o })
    posting := t.posting.filter (· ≠ h)
    reports := t.reports ++ [h] }

/-- R127: a CONTENDING entry that lost, or whose round was cut short. -/
def Sender.handBack (t : Sender) (h : Handle) : Sender :=
  match t.entries[h] with
  | some e =>
    if e.state = .contending then
      if e.cancelRequested then t.done h e .cancelled else t.setEntry h (some { e with state := .waiting })
    else t
  | none => t

/-- R128: a WON entry at an accepted frame end. -/
def Sender.settleSent (t : Sender) (h : Handle) : Sender :=
  match t.entries[h] with
  | some e => if e.state = .won then t.done h { e with cancelRequested := false } .sent else t
  | none => t

/-- R129: an entry whose void count has reached 8 without a cancel is given up. -/
def TransmitEntry.voidDue (e : TransmitEntry) : Bool := e.state == .won && !e.cancelRequested && decide (8 ≤ e.voidCount)

/-- R129: a WON entry at a frame that was voided, locally discarded or broken. -/
def Sender.settleVoided (t : Sender) (h : Handle) : Sender :=
  match t.entries[h] with
  | some e =>
    if e.state = .won then
      let e' := { e with voidCount := e.voidCount + 1 }
      if e'.cancelRequested then t.done h e' .cancelled
      else if e'.voidDue then t.done h e' .voidedOut
      else t.setEntry h (some { e' with state := .waiting })
    else t
  | none => t

/-- R129: a WON entry at a stuck medium; no void count is raised. -/
def Sender.settleStuck (t : Sender) (h : Handle) : Sender :=
  match t.entries[h] with
  | some e =>
    if e.state = .won then
      if e.cancelRequested then t.done h e .cancelled else t.setEntry h (some { e with state := .waiting })
    else t
  | none => t

/-- The handle of an own NOTICE that won a round. -/
def WinnerRecord.ownHandle (w : WinnerRecord) : Option Handle :=
  match w.own with
  | some (.notice h) => some h
  | _ => none

/-- R128, R129, R131: the handles in the order of the rounds they won; every handle follows, so that no WON entry is left out. -/
def roundOrder (ws : List WinnerRecord) : List Handle := ws.filterMap (·.ownHandle) ++ List.finRange 4

/-- R134: a WAITING entry at an entry to DETACHED or WITHDRAWN. -/
def Sender.cancelWaiting (t : Sender) (h : Handle) : Sender :=
  match t.entries[h] with
  | some e => if e.state = .waiting then t.done h e .cancelled else t
  | none => t

/-- R134: every WAITING entry becomes DONE (CANCELLED), in posting order. -/
def Sender.cancelAll (t : Sender) : Sender := t.posting.foldl Sender.cancelWaiting t

/-! ## Claim unit (chapter 7) -/

/-- One claim record written. -/
def Claims.setRecord (c : Claims) (k : LineNo) (r : ClaimState) : Claims := { c with records := c.records.put k r }

/-- R109: a CONTENDING record that lost or whose round was cut short. -/
def Claims.handBack (c : Claims) (k : LineNo) : Claims :=
  if c.records[k] = .contending then c.setRecord k .idle else c

/-- R111: every WON record becomes IDLE at a frame that is not accepted. -/
def Claims.dropWon (c : Claims) : Claims :=
  { c with records := Table.of fun k => if c.records[k] = .won then .idle else c.records[k] }

/-- Whether a record is OWNED or RELEASING, and so is abandoned at an entry to DETACHED or WITHDRAWN (R119). -/
def ClaimState.engaged : ClaimState → Bool
  | .owned _ => true
  | .releasing => true
  | .idle => false
  | .contending => false
  | .won => false

/-- R119, R120: the lines whose claims an entry to DETACHED or WITHDRAWN abandons, in order of line number. -/
def Claims.engagedLines (c : Claims) : List LineNo := (List.finRange 48).filter fun k => c.records[k].engaged

/-- R113: a hold counter has reached the hold limit. -/
def ClaimState.holdDue (limit : Nat) : ClaimState → Bool
  | .owned n => decide (limit ≤ n)
  | .idle => false
  | .contending => false
  | .won => false
  | .releasing => false

/-- R113: the hold limit in accepted frames, 8 times the configured value. -/
def State.holdLimit (s : State) : Nat := s.config.station.holdLimit.toNat * 8

/-! ## Dispatch (chapter 10) -/

/-- Whether a kind belongs to a line source. -/
def DeliveryKind.ofLine : DeliveryKind → Bool
  | .lineWatch => true
  | .lineServe => true
  | .notice => false
  | .transmit => false
  | .station => false

/-- R167: every line entry orphaned, every edge flag and serve flag cleared. -/
def Dispatch.detach (d : Dispatch) : Dispatch :=
  { d with
    inService := d.inService.map fun e => if e.kind.ofLine then { e with orphaned := true } else e
    edgeFlags := Table.of fun _ => false
    serveFlags := Table.of fun _ => false }

/-- R113, R155, R166: the serve flag of line `k` cleared and its LINE_SERVE entry orphaned. -/
def Dispatch.abandon (d : Dispatch) (k : LineNo) : Dispatch :=
  { d with
    serveFlags := d.serveFlags.put k false
    inService := d.inService.map fun e =>
      if e.kind = .lineServe ∧ e.source = lineDelivery k then { e with orphaned := true } else e }

/-- R113: the claim on line `k` given up, without its event. -/
def State.abandonClaim (s : State) (k : LineNo) : State :=
  { s with claims := s.claims.setRecord k .idle, dispatch := s.dispatch.abandon k }

/-! ## Roster (4.5) -/

/-- R70: an entry counts a roster slot sample; an absent count that passes 2 is left for `lose`. -/
def RosterEntry.age (e : RosterEntry) (sample : Level) : RosterEntry :=
  match sample, e.present with
  | .dominant, _ => ⟨true, 0⟩
  | .recessive, true => ⟨true, e.absentCount + 1⟩
  | .recessive, false => .absent

/-- R70: the absent count of a PRESENT entry has passed 2. -/
def RosterEntry.lossDue (e : RosterEntry) : Bool := e.present && decide (2 < e.absentCount)

/-- R70: an entry whose absent count has passed 2 becomes ABSENT. -/
def RosterEntry.lose (e : RosterEntry) : RosterEntry := if e.lossDue then .absent else e

/-- R70: a roster entry after an accepted frame. -/
def State.rosterAfter (s : State) (n : StationNo) : RosterEntry :=
  (s.membership.roster[n].age s.line.samples.roster[n]).lose

/-- R70, R72: an accepted frame makes entry `n` ABSENT. -/
def State.losesPeer (s : State) (n : StationNo) : Bool :=
  (s.membership.roster[n].age s.line.samples.roster[n]).lossDue

/-- R71: the roster events of an accepted frame, in order of station number; none with report_peers off or at the baseline. -/
def State.rosterEvents (s : State) : List StationEvent :=
  if s.config.station.reportPeers && !s.membership.rosterBaseline then
    (List.finRange 32).filterMap fun n =>
      if !s.membership.roster[n].present && s.line.samples.roster[n].low then some (.peerJoined n)
      else if s.losesPeer n then some (.peerLost n)
      else none
  else []

/-- R69, R71: the roster emptied and its baseline flag set. -/
def Membership.emptyRoster (m : Membership) : Membership :=
  { m with roster := Table.of fun _ => .absent, rosterBaseline := true }

/-! ## Sources (chapter 5) -/

/-- R84: an active edge taken by a PULSE or UNTIL_SERVED source whose line is not NONE. -/
def SourceRun.edge (r : SourceRun) (c : SourceConfig) : SourceRun :=
  match c.line, c.discipline with
  | none, _ => r
  | some _, .follow => r
  | some _, .pulse =>
    if r.holding then { r with again := true } else { r with holding := true, pulseCount := c.pulseFrames.toNat }
  | some _, .untilServed => if r.holding then { r with again := true } else { r with holding := true }

/-- R84, R89: the link states in which an active edge is taken. -/
def LinkState.takesEdges : LinkState → Bool
  | .listening | .proving | .joined | .leaving | .stalled => true
  | .detached | .withdrawn => false

/-- R86: a HOLDING PULSE source whose pulse count stands at 0. -/
def SourceRun.pulseDue (r : SourceRun) : Bool := r.holding && r.pulseCount == 0

/-- R86: the end of a pulse: IDLE, or a fresh count when a further edge is remembered. -/
def SourceRun.expirePulse (r : SourceRun) (c : SourceConfig) : SourceRun :=
  if r.pulseDue then
    if r.again then { r with again := false, pulseCount := c.pulseFrames.toNat } else { r with holding := false }
  else r

/-- R87: an UNTIL_SERVED source released by a mark. An edge that falls together with the release comes before or after it in the
order of the queue, which with again already yes is the model's choice (assumption 22). -/
def SourceRun.release (r : SourceRun) : SourceRun :=
  if r.holding then
    if r.again then { r with again := false } else { r with holding := false }
  else r

/-- R86, R87: a source at an accepted frame end. An edge that falls together with it comes before or after it in the order of the
queue, which with again already yes is the model's choice (assumption 22). -/
def SourceRun.accept (r : SourceRun) (c : SourceConfig) (samples : SlotSamples) : SourceRun :=
  if r.drove then
    match c.discipline with
    | .follow => r
    | .pulse => { r with pulseCount := r.pulseCount - 1 }.expirePulse c
    | .untilServed =>
      match c.line with
      | some k => if samples.mark[k].low then r.release else r
      | none => r
  else r

/-- R90: the running state cleared on entry to DETACHED or WITHDRAWN; the filtered pin level is kept. -/
def SourceRun.clear (r : SourceRun) : SourceRun := { SourceRun.reset with filtered := r.filtered }

/-- R83, R85: source `i` contributes to its line at a plan latch. -/
def State.contributes (s : State) (i : SourceNo) : Bool :=
  let c := s.config.sources[i]
  let r := s.sources[i]
  c.line.isSome && s.membership.link == .joined &&
    match c.discipline with
    | .follow => sourceActive i c r
    | .pulse => r.holding
    | .untilServed => r.holding

/-! ## Line image (chapter 6) -/

/-- R101: every record at its reset value and the baseline flag set; the accepted-frame number is kept. -/
def Image.emptied (m : Image) : Image := { Image.reset with frameNumber := m.frameNumber }

/-- Whether a round winner is a CLAIM for line `k`. -/
def WinnerRecord.claims (w : WinnerRecord) (k : LineNo) : Bool := w.kind == .claim && w.key.toNat == k.val

/-- R95: the owner decided from the earliest CLAIM for the line and the held slot. -/
def decideOwner (ws : List WinnerRecord) (k : LineNo) (held : Bool) (before : Owner) : Owner :=
  match ws.find? (·.claims k) with
  | some w => .station w.station
  | none => if held then (if before = .nobody then .unknown else before) else .nobody

/-- R96: a lost peer removed as owner. -/
def removeOwner (lost : StationNo → Bool) (held : Bool) (o : Owner) : Owner :=
  match o with
  | .station n => if lost n then (if held then .unknown else .nobody) else o
  | .unknown => .unknown
  | .nobody => .nobody

/-- R94 to R97: a line record at an accepted frame end. -/
def State.lineAfter (s : State) (k : LineNo) : LineRecord :=
  let r := s.image.lines[k]
  let asserted := s.line.samples.line[k].low
  let held := s.line.samples.held[k].low
  { asserted, held
    marked := s.line.samples.mark[k].low
    owner := removeOwner s.losesPeer held (decideOwner s.contention.winners k held r.owner)
    rose := !s.image.baseline && !r.asserted && asserted
    fell := !s.image.baseline && r.asserted && !asserted
    lastChange := if r.asserted = asserted then r.lastChange else s.image.frameNumber }

/-! ## Receive queues (chapter 9) -/

/-- R138: an enabled filter entry matches a notice. -/
def FilterEntry.accepts (f : FilterEntry) (w : WinnerRecord) : Bool :=
  f.enabled
    && (match f.form with
      | .range => decide (f.first ≤ w.key ∧ w.key ≤ f.second)
      | .pattern => (w.key ^^^ f.first) &&& f.second == 0)
    && (match f.sender with
      | none => true
      | some n => w.station == n)

/-- R139: the action of a notice: the first enabled entry that matches, else the default action. -/
def Configuration.noticeAction (c : Configuration) (w : WinnerRecord) : FilterAction :=
  match c.filters.toList.find? (·.accepts w) with
  | some f => f.action
  | none => c.station.defaultAction

/-- R142: the record a notice stores. -/
def WinnerRecord.noticeRecord (w : WinnerRecord) (frame : Word16) (gap : Bool) : NoticeRecord :=
  { tag := w.key, sender := w.station, urgency := w.urgency, length := w.length, data := w.data, frame, gap }

/-- R143, R144: a notice stored in a queue, or the queue's overflow. -/
def ReceiveQueue.store (q : ReceiveQueue) (policy : OverflowPolicy) (frame : Word16) (w : WinnerRecord) : ReceiveQueue :=
  if q.records.length < 8 then
    { q with records := q.records ++ [w.noticeRecord frame q.gapPending], gapPending := false }
  else
    match policy with
    | .keepOld => { q with lost := min 255 (q.lost + 1), gapPending := true }
    | .keepNew =>
      { records := q.records.drop 1 ++ [w.noticeRecord frame true], lost := min 255 (q.lost + 1), gapPending := false }

/-- R140: whether a round winner is filtered. -/
def Configuration.filters? (c : Configuration) (w : WinnerRecord) : Bool :=
  w.kind == .notice && (w.own.isNone || c.station.hearOwn)

/-- R139, R140, R143: one round winner filtered. -/
def Receiver.filter (c : Configuration) (frame : Word16) (q : Receiver) (w : WinnerRecord) : Receiver :=
  if c.filters? w then
    match c.noticeAction w with
    | .queueA => { q with queueA := q.queueA.store c.station.policyA frame w }
    | .queueB => { q with queueB := q.queueB.store c.station.policyB frame w }
    | .drop => q
  else q

/-! ## A round cut short, and the entries to DETACHED and WITHDRAWN -/

/-- R36, R38: the offered item handed back to its owning block as having lost. That it is set to none at once is the model's choice
(assumption 28). -/
def State.handBackOffered (s : State) : State :=
  let c := { s.contention with offered := none }
  match s.contention.offered with
  | none => s
  | some .hello => { s with contention := c }
  | some (.claim k) => { s with contention := c, claims := s.claims.handBack k }
  | some (.notice h) => { s with contention := c, sender := s.sender.handBack h }

/-- R119, R120: every record IDLE and every mark-owed flag no. -/
def Claims.cleared (_ : Claims) : Claims := .reset

/-- R65, R90, R101, R119, R134, R167, R10: everything the blocks do on entry to DETACHED but the events. -/
def State.detachBlocks (s : State) : State :=
  let s := s.handBackOffered
  { s with
    line := { s.line.idle with lastAcceptedPlan := .silent }
    membership := { s.membership.emptyRoster with
      link := .detached, listeningCount := 0, helloKey := none, remembered := none }
    sources := Table.of fun i => s.sources[i].clear
    image := s.image.emptied
    claims := s.claims.cleared
    sender := s.sender.cancelAll
    dispatch := s.dispatch.detach }

/-- R119, R120: the claim unit's events of an entry to DETACHED or WITHDRAWN. -/
def State.abandonEvents (s : State) : List StationEvent := s.claims.engagedLines.map .abandoned

/-- R65: the entry to DETACHED with its LINK event and the ABANDONED events (R76). -/
def State.enterDetached (s : State) : State :=
  s.detachBlocks.recordGroups [.linkChanged .detached] s.abandonEvents

/-- R53, R68, R90, R120, R134, R167: the entry to WITHDRAWN. Roster, listening count, HELLO key, image and last accepted plan
are kept. -/
def State.withdrawBlocks (s : State) : State :=
  let s := s.handBackOffered
  { s with
    line := s.line.idle
    membership := { s.membership with link := .withdrawn, remembered := none }
    sources := Table.of fun i => s.sources[i].clear
    claims := s.claims.cleared
    sender := s.sender.cancelAll
    dispatch := s.dispatch.detach }

/-- R53: the entry to WITHDRAWN with its LINK event and the ABANDONED events (R76). -/
def State.enterWithdrawn (s : State) : State :=
  s.withdrawBlocks.recordGroups [.linkChanged .withdrawn] s.abandonEvents

/-- R53: the tally stands at 255 in a link state from which a station is withdrawn. -/
def State.withdrawalDue (s : State) : Bool := decide (255 ≤ s.membership.tally) && s.membership.link.participates

/-- R60: the listening count stands at 2 in LISTENING. -/
def State.provingDue (s : State) : Bool := s.membership.link == .listening && decide (2 ≤ s.membership.listeningCount)

/-- R60: the HELLO key is taken from the key generator, whose periods since its last reading are a free value, and the
station becomes PROVING; without its event. -/
def State.becomeProving (s : State) : State :=
  let key := s.membership.keyGenerator + BitVec.ofNat 11 (Config.elapsedClocks s.freeIndex)
  { s with
    freeIndex := s.freeIndex + 1
    membership := { s.membership with link := .proving, keyGenerator := key, helloKey := some key } }

/-! ## Resets and the local port -/

/-- R181: what RESET does at the rise of LPS: everything at its reset value but the straps and the key generator. The queue
of commands and the model's free index are kept. -/
def State.resetBlocks (s : State) : State :=
  { State.reset with
    straps := s.straps
    membership := { Membership.reset with keyGenerator := s.membership.keyGenerator }
    freeIndex := s.freeIndex
    pending := s.pending }

/-- R174, R181: a new transaction begins at a fall of LPS, so a RESET taken in the transaction before has had its rise. -/
def State.openTransaction (s : State) : State := if s.port.resetTaken then s.resetBlocks else s

/-- R174, R177: the command is answered: its status byte and response bytes are due on LPO. -/
def State.answer (s : State) (status : Status) (bytes : List Byte) : State :=
  { s with port := { phase := .answering, response := status.code :: bytes, edges := 0, resetTaken := false } }

/-- R174, R176: bit `i` of the answer as LPO gives it: byte by byte, the most significant bit first, and zeros after the last. -/
def LocalPort.answerBit (p : LocalPort) (i : Nat) : Bool := (p.response.getD (i / 8) 0).getMsbD (i % 8)

/-- R174: LPO is released while LPS is high and driven low while LPS is low and no bit of an answer is due, which is so while the
command and argument bytes are read and while the port waits for LPS to rise after a pin reset; from the first falling edge of LPC after the command is taken it carries the answer. -/
def LocalPort.lpo (p : LocalPort) : LpoDrive :=
  match p.phase, p.edges with
  | .closed, _ => .released
  | .waiting, _ => .low
  | .reading _, _ => .low
  | .answering, 0 => .low
  | .answering, i + 1 => if p.answerBit i then .high else .low

/-- R174, R176: a falling edge of LPC in an answer: LPO goes on to the next bit, and stays low after the last one. -/
def LocalPort.shift (p : LocalPort) : LocalPort :=
  if p.edges ≤ 8 * p.response.length then { p with edges := p.edges + 1 } else p

/-- R174, 11.7.5: the most bits read before the bit that takes a command: all but the last of the 13 bytes of a POST NOTICE with
8 data bytes. -/
def longestReading : Nat := 8 * 13 - 1

/-- R174: a rising edge of LPC before a command is taken reads one bit from LPI. The bit that takes the command is read by the
command's own step. -/
def readBit (bits : List Bool) (bit : Bool) : List Bool := if bits.length < longestReading then bits ++ [bit] else bits

/-- R174, R176, R182: one period at the local port: with LPS high it may fall; before a command is taken a bit is read; in an answer
LPO goes on to the next bit; a port that waits for LPS to rise takes no notice of LPC. When LPS falls and what is read are free values (assumption 14). -/
def State.portPeriod (s : State) : State :=
  match s.port.phase with
  | .closed =>
    { s with
      freeIndex := s.freeIndex + 1
      port := if Config.lpsFalls s.freeIndex then { s.port with phase := .reading [] } else s.port }
  | .reading bits =>
    { s with
      freeIndex := s.freeIndex + 1
      port := { s.port with phase := .reading (readBit bits (Config.lpiBit s.freeIndex)) } }
  | .answering => { s with port := s.port.shift }
  | .waiting => s

/-- A local port command taken: the rest of its bytes read, in the open transaction or in a new one, and `effect` its effect and
answer (R174, R175). -/
def takeCommand (effect : State → State) (s : State) : Host.Outcome State Fault Refusal :=
  complete s.openTransaction (effect s.openTransaction)

/-- R60, R174: what a step on an empty queue is: one period of the reference clock and one at the local port
(assumptions 3 and 14). -/
def State.clockPeriod (s : State) : State :=
  { s.portPeriod with membership := { s.membership with keyGenerator := s.membership.keyGenerator + 1 } }

end Sys2Proof.Machine
end

