-- ==== Sys2Proof/Machine/Frame.lean ====
section
/-! DEFINITION. The operations of a frame: the plan and news, the start mark, candidates and words, the round and its end, the
frame end and the break of a frame (chapters 1 to 3, with the frame rules of chapters 4 to 9). -/

namespace Sys2Proof.Machine

open Sys2Proof

/-! ## Frame plan and news (1.6, 1.7) -/

/-- R9: the plan the line controller would latch at this moment. -/
def State.planNow (s : State) : FramePlan :=
  if s.membership.link = .proving ∨ s.membership.link = .joined then
    { roster := .dominant
      line := Table.of fun k =>
        Level.pull ((List.finRange 16).any fun i => s.config.sources[i].line == some k && s.contributes i)
      held := Table.of fun k =>
        match s.claims.records[k] with
        | .owned _ => .dominant
        | .idle => .recessive
        | .contending => .recessive
        | .won => .recessive
        | .releasing => .recessive
      mark := Table.of fun k => Level.pull (s.claims.markOwed[k] || s.claims.records[k] == .releasing) }
  else .silent

/-- The first five conditions of R106: the station may bid, serves the line, has no claim, delivery or entry for it, and its
image names no owner. -/
def State.mayClaim (s : State) (k : LineNo) : Bool :=
  s.membership.link == .joined && s.membership.level != .muted
    && s.config.lines[k].role == .serve
    && s.claims.records[k] == .idle
    && !s.dispatch.serveFlags[k]
    && !(s.dispatch.inService.any fun e => e.source == lineDelivery k)
    && s.image.lines[k].owner == .nobody

/-- R106: line `k` is claimable at an enter beat of the frame in progress. -/
def State.claimable (s : State) (k : LineNo) : Bool :=
  s.mayClaim k && s.line.samples.line[k].low && !s.line.samples.held[k].low
    && !(s.contention.winners.any (·.claims k))

/-- R107: line `k` is claimable in the news sense. -/
def State.claimNews (s : State) (k : LineNo) : Bool :=
  s.mayClaim k && s.image.lines[k].asserted && !s.image.lines[k].held

/-- Whether a transmit entry is WAITING. -/
def entryWaiting : Option TransmitEntry → Bool
  | some e => e.state == .waiting
  | none => false

/-- R12: the station has news. -/
def State.news (s : State) : Bool :=
  (s.membership.link == .proving || s.membership.link == .joined) &&
    (s.planNow != s.line.lastAcceptedPlan
      || (List.finRange 48).any (fun k => s.claims.markOwed[k] || s.claims.records[k] == .releasing)
      || s.membership.link == .proving
      || (s.membership.link == .joined && (List.finRange 4).any fun h => entryWaiting s.sender.entries[h])
      || (List.finRange 48).any s.claimNews)

/-! ## Start mark (R5) -/

/-- R5, R9, R22, R38, R40, R85: a start mark is taken: the station becomes a participant of a new frame. `own` says whether the
station itself pulls SLD low for the mark (R13). That the verdict drive stands recessive from here to the verdict beat is the model's
choice (assumption 19), and so are that a cleared slot sample is recessive (assumption 27) and that the contention state is emptied whole
after a frame without a round cut short too (assumption 21). -/
def State.startFrame (s : State) (own : Bool) : State :=
  { s with
    line := { s.line with
      medium := .inFrame, phase := .slots, beatCount := 0, plan := s.planNow, samples := .cleared
      followOn := false, guardTimer := .stopped, quietTimer := .stopped, sld := Level.pull own, slb := .recessive }
    contention := .empty
    errors := .clear
    sources := Table.of fun i => { s.sources[i] with drove := s.contributes i } }

/-! ## Contention words and candidates (2.3, 2.4) -/

/-- The two beats of a kind field, as numbers (11.7.2). -/
def ItemKind.code : ItemKind → BitVec 2
  | .claim => 0
  | .notice => 1
  | .hello => 2
  | .unassigned => 3

/-- The kind a two-beat field stands for. -/
def kindOfCode (c : BitVec 2) : ItemKind :=
  if c = 0 then .claim else if c = 1 then .notice else if c = 2 then .hello else .unassigned

/-- R25: the 22 beats of a contention word as a number, urgency first. -/
def contentionWord (urgency : Urgency) (kind : ItemKind) (key : Tag) (station : StationNo) : BitVec 22 :=
  urgency ++ kind.code ++ key ++ BitVec.ofNat 5 station.val

/-- R27, R28, R29: the word of an item of this station. -/
def State.itemWord (s : State) : Item → BitVec 22
  | .hello => contentionWord 0 .hello (s.membership.helloKey.getD 0) s.straps.stationNumber
  | .claim k => contentionWord s.config.lines[k].urgency .claim (BitVec.ofNat 11 k.val) s.straps.stationNumber
  | .notice h =>
    match s.sender.entries[h] with
    | some e => contentionWord e.urgency .notice e.tag s.straps.stationNumber
    | none => contentionWord 15 .notice 2047 s.straps.stationNumber

/-- R27: the HELLO is owed. A PROVING station's HELLO has won no round of an accepted frame, since that win would have made it
JOINED or DETACHED (R61). -/
def State.helloOwed (s : State) : Bool :=
  s.membership.link == .proving && !(s.contention.winners.any fun w => w.own == some .hello)

/-- R24, R26, R133: the items the station may offer at an enter beat. -/
def State.candidates (s : State) : List Item :=
  if s.membership.level = .muted then []
  else
    match s.membership.link with
    | .proving => if s.helloOwed then [.hello] else []
    | .joined =>
      ((List.finRange 48).filter s.claimable).map .claim
        ++ (s.sender.posting.filter fun h => entryWaiting s.sender.entries[h]).map .notice
    | .detached => []
    | .listening => []
    | .leaving => []
    | .stalled => []
    | .withdrawn => []

/-- R26: of a list of items the one whose word is lowest, the earliest of equal words. -/
def State.lowestItem (s : State) : List Item → Option Item
  | [] => none
  | i :: is =>
    match s.lowestItem is with
    | none => some i
    | some j => if s.itemWord i ≤ s.itemWord j then some i else some j

/-- R26, R108, R127: the offered item recorded, and its owning block told. -/
def State.offer (s : State) : Option Item → State
  | none => { s with contention := { s.contention with offered := none } }
  | some .hello => { s with contention := { s.contention with offered := some .hello } }
  | some (.claim k) =>
    { s with
      contention := { s.contention with offered := some (.claim k) }
      claims := s.claims.setRecord k .contending }
  | some (.notice h) =>
    { s with
      contention := { s.contention with offered := some (.notice h) }
      sender := s.sender.setEntry h (s.sender.entries[h].map fun e => { e with state := .contending }) }

/-! ## Faults (3.1 to 3.3) -/

/-- R41: a DRIVE_FAULT reported to the verdict logic; `inRound` says whether it is an error of the round in progress. -/
def State.driveFault (s : State) (inRound : Bool) : State :=
  { s with
    errors := { s.errors with driveFault := true }
    contention := { s.contention with driveFault := s.contention.driveFault || inRound } }

/-- R42: a FORM_FAULT of the round in progress. -/
def State.formFault (s : State) : State :=
  { s with
    errors := { s.errors with formFault := true }
    contention := { s.contention with formFault := true } }

/-- R35: a CHECK_FAULT of the round in progress. -/
def State.checkFault (s : State) : State :=
  { s with
    errors := { s.errors with checkFault := true }
    contention := { s.contention with checkFault := true } }

/-! ## Word, body and check (2.5 to 2.7) -/

/-- The value of a run of beats, most significant first (R25). -/
def beatsValue (beats : List Level) : Nat := beats.foldl (fun n b => 2 * n + b.bit.toNat) 0

/-- R34: the check register takes in one beat. -/
def checkStep (reg : BitVec 16) (beat : Level) : BitVec 16 :=
  let shifted := reg <<< 1
  if reg.msb = beat.bit then shifted else shifted ^^^ 0x1021

/-- The kind field of a sampled word. -/
def wordKind (word : List Level) : ItemKind := kindOfCode (BitVec.ofNat 2 (beatsValue ((word.drop 4).take 2)))

/-- The key field of a sampled word. -/
def wordKey (word : List Level) : Tag := BitVec.ofNat 11 (beatsValue ((word.drop 6).take 11))

/-- The urgency field of a sampled word. -/
def wordUrgency (word : List Level) : Urgency := BitVec.ofNat 4 (beatsValue (word.take 4))

/-- The station field of a sampled word. -/
def wordStation (word : List Level) : StationNo :=
  ⟨(BitVec.ofNat 5 (beatsValue ((word.drop 17).take 5))).toNat, (BitVec.ofNat 5 _).isLt⟩

/-- R31: whether a sampled word is malformed. -/
def wordMalformed (word : List Level) : Bool :=
  match wordKind word with
  | .claim => decide (48 ≤ (wordKey word).toNat)
  | .notice => false
  | .hello => false
  | .unassigned => true

/-- The beat the station's own word carries at place `i`, 0 being the first word beat. -/
def State.ownWordBeat (s : State) (i : Nat) : Level :=
  match s.contention.offered with
  | some item => Level.ofBit ((s.itemWord item).getMsbD i)
  | none => .recessive

/-- The data bytes of the notice the station itself sends in this round. -/
def State.ownData (s : State) : List Byte :=
  match s.contention.offered with
  | some (.notice h) =>
    match s.sender.entries[h] with
    | some e => e.data
    | none => []
  | _ => []

/-- R33: the number of data bytes a length field makes a station count: 8 for a length of 9 to 15. -/
def countedLength (value : Nat) : Nat := min 8 value

/-- The number of data bytes by which the station counts the body in progress: its own length as winner (R32), the length read
as a receiver (R33). -/
def State.bodyLength (s : State) : Nat :=
  match s.contention.role with
  | .contender => s.ownData.length
  | .receiver => countedLength (beatsValue (s.contention.body.take 4))

/-- R29: the number of body beats of a notice of `n` data bytes. -/
def bodyBeats (n : Nat) : Nat := 4 + 8 * n + 16

/-- R29, R32: the beat the winner drives at body place `i`, 0 being the first length beat. -/
def State.ownBodyBeat (s : State) (i : Nat) : Level :=
  let n := s.ownData.length
  if i < 4 then Level.ofBit ((BitVec.ofNat 4 n).getMsbD i)
  else if i < 4 + 8 * n then Level.ofBit ((s.ownData.getD ((i - 4) / 8) 0).getMsbD ((i - 4) % 8))
  else Level.ofBit (s.contention.check.getMsbD (i - 4 - 8 * n))

/-- Beats grouped into bytes, first beat most significant. -/
def beatsBytes : Nat → List Level → List Byte
  | 0, _ => []
  | n + 1, beats => BitVec.ofNat 8 (beatsValue (beats.take 8)) :: beatsBytes n (beats.drop 8)

/-! ## Beats (1.4, 2.2, 2.5, 2.6) -/

/-- R7, R9: the level the plan gives slot beat `n`, 0 being beat 1. -/
def State.slotDrive (s : State) (n : Nat) : Level :=
  if n < 32 then (if n = s.straps.stationNumber.val then s.line.plan.roster else .recessive)
  else if h : n - 32 < 48 then s.line.plan.line[n - 32]
  else if h : n - 80 < 48 then s.line.plan.held[n - 80]
  else if h : n - 128 < 48 then s.line.plan.mark[n - 128]
  else .recessive

/-- R7: the sample of slot beat `n` stored. -/
def SlotSamples.store (t : SlotSamples) (n : Nat) (sample : Level) : SlotSamples :=
  if h : n < 32 then { t with roster := t.roster.put ⟨n, h⟩ sample }
  else if h : n - 32 < 48 then { t with line := t.line.put ⟨n - 32, h⟩ sample }
  else if h : n - 80 < 48 then { t with held := t.held.put ⟨n - 80, h⟩ sample }
  else if h : n - 128 < 48 then { t with mark := t.mark.put ⟨n - 128, h⟩ sample }
  else t

/-- The beat rises: SLB released and the beat counted (R6), with the station's drive in it as given. That the station's own pull on SLB
ends here is the model's choice (assumption 30). -/
def State.countBeat (s : State) (drive : Level) (next : Phase) : State :=
  { s with line := { s.line with beatCount := s.line.beatCount + 1, slb := .recessive, sld := drive, phase := next } }

/-- R7, R41: a slot beat ends. -/
def State.slotEnd (s : State) (sample : Level) : State :=
  let n := s.line.beatCount
  let drive := s.slotDrive n
  let s := { s with line := { s.line with samples := s.line.samples.store n sample } }
  let s := if drive = .dominant ∧ sample = .recessive then s.driveFault false else s
  s.countBeat drive (if n + 1 < 176 then .slots else .enter)

/-- R30, R31, R34: a word beat ends. -/
def State.wordEnd (s : State) (sample : Level) : State :=
  let contends := s.contention.role = .contender
  let drive := if contends then s.ownWordBeat s.contention.word.length else .recessive
  let word := s.contention.word ++ [sample]
  let s := { s with contention := { s.contention with
    word, check := checkStep s.contention.check sample
    role := if contends ∧ drive ≠ sample then .receiver else s.contention.role } }
  let s := if contends ∧ drive = .dominant ∧ sample = .recessive then s.driveFault true else s
  if word.length < 22 then s.countBeat drive .word
  else
    let s := if wordMalformed word then s.formFault else s
    s.countBeat drive (if wordKind word = .notice then .body else .roundEnd)

/-- R32, R33, R34: a body beat ends. -/
def State.bodyEnd (s : State) (sample : Level) : State :=
  let wins := s.contention.role = .contender
  let place := s.contention.body.length
  let drive := if wins then s.ownBodyBeat place else .recessive
  let taken := if place < 4 ∨ place < 4 + 8 * s.bodyLength then
    checkStep s.contention.check (if wins then drive else sample) else s.contention.check
  let body := s.contention.body ++ [sample]
  let s := { s with contention := { s.contention with body, check := taken } }
  let s := if wins ∧ drive ≠ sample then s.driveFault true else s
  let s := if ¬ wins ∧ body.length = 4 ∧ 8 < beatsValue body then s.formFault else s
  s.countBeat drive (if body.length < bodyBeats s.bodyLength then .body else .roundEnd)

/-- R23: the beat of an enter beat is sampled: a round begins, or the contention phase ends. -/
def State.enterSampled (s : State) (drove : Bool) (sample : Level) : State :=
  match sample with
  | .dominant =>
    { s with contention := { s.contention with
        round := s.contention.round + 1
        role := if drove then .contender else .receiver
        word := [], body := [], check := 0xFFFF, driveFault := false, checkFault := false, formFault := false } }
      |>.countBeat (Level.pull drove) .word
  | .recessive =>
    let s := if drove then (s.driveFault false).handBackOffered else s
    s.countBeat (Level.pull drove) .verdict

/-- R23, R26: the low half of an enter beat: the lowest candidate is offered, and SLD driven dominant if there is one. -/
def State.enterFall (s : State) : State :=
  let item := s.lowestItem s.candidates
  let t := s.offer item
  { t with line := { t.line with slb := .dominant, sld := Level.pull item.isSome } }

/-- R23: an enter beat up to its end: what BEAT_START has not done yet, and then the sample. -/
def State.enterStep (s : State) (sample : Level) : State :=
  let s := if s.line.slb = .dominant then s else s.enterFall
  s.enterSampled s.line.sld.low sample

/-! ## End of a round (2.8) -/

/-- R33, R36: the length the round's record holds. -/
def State.recordLength (s : State) : Nat :=
  if wordKind s.contention.word = .notice then
    match s.contention.role with
    | .contender => s.ownData.length
    | .receiver => beatsValue (s.contention.body.take 4)
  else 0

/-- R33, R36: the data bytes the round's record holds; none for a length of 9 to 15. -/
def State.recordData (s : State) : List Byte :=
  if wordKind s.contention.word = .notice then
    match s.contention.role with
    | .contender => s.ownData
    | .receiver =>
      let n := beatsValue (s.contention.body.take 4)
      if n ≤ 8 then beatsBytes n (s.contention.body.drop 4) else []
  else []

/-- R35: a receiver of a NOTICE round of length 0 to 8 finds the check beats different from its register. -/
def State.checkDiffers (s : State) : Bool :=
  let n := beatsValue (s.contention.body.take 4)
  s.contention.role == .receiver && wordKind s.contention.word == .notice && decide (n ≤ 8)
    && BitVec.ofNat 16 (beatsValue ((s.contention.body.drop (4 + 8 * n)).take 16)) != s.contention.check

/-- R36: the round winner record. -/
def State.winnerRecord (s : State) : WinnerRecord where
  round := s.contention.round
  kind := wordKind s.contention.word
  urgency := wordUrgency s.contention.word
  key := wordKey s.contention.word
  station := wordStation s.contention.word
  length := s.recordLength
  data := s.recordData
  own := if s.contention.role = .contender then s.contention.offered else none
  error := s.contention.driveFault || s.contention.checkFault || s.contention.formFault

/-- R109: a CONTENDING record that won its round. -/
def Claims.win (c : Claims) (k : LineNo) : Claims :=
  if c.records[k] = .contending then c.setRecord k .won else c

/-- R127: a CONTENDING entry that won its round. -/
def Sender.win (t : Sender) (h : Handle) : Sender :=
  match t.entries[h] with
  | some e => if e.state = .contending then t.setEntry h (some { e with state := .won }) else t
  | none => t

/-- R36, R109, R127: the owning block told that the offered item won. -/
def State.tellWon (s : State) : State :=
  match s.contention.offered with
  | some (.claim k) => { s with claims := s.claims.win k }
  | some (.notice h) => { s with sender := s.sender.win h }
  | some .hello => s
  | none => s

/-- R35, R36, R37: a round ends. That the offered item is set to none at once is the model's choice (assumption 28). -/
def State.endRound (s : State) : State :=
  let s := if s.checkDiffers then s.checkFault else s
  let record := s.winnerRecord
  let s := if s.contention.role = .contender then s.tellWon else s.handBackOffered
  { s with
    contention := { s.contention with offered := none, winners := s.contention.winners ++ [record] }
    line := { s.line with phase := if s.contention.round < 4 then .enter else .verdict } }

/-- Whether the end of a round is due (R36). -/
def State.roundDue (s : State) : Bool := s.line.medium == .inFrame && s.line.phase == .roundEnd

/-- The end of a round carried out if it is still due: it falls at the round's last beat, before any later event (R36). -/
def State.settleRound (s : State) : State := if s.roundDue then s.endRound else s

/-! ## Frame end (3.6) -/

/-- R110: the round winners that are a CLAIM for line `k`. -/
def State.claimsWon (s : State) (k : LineNo) : List WinnerRecord := s.contention.winners.filter (·.claims k)

/-- R110: the station's own CLAIM for `k` is the won claim and no other CLAIM for `k` is in the winner list. -/
def State.soleClaim (s : State) (k : LineNo) : Bool :=
  match s.claimsWon k with
  | [w] => w.own == some (.claim k)
  | _ => false

/-- R110, R112, R116: a claim record at an accepted frame end, before the hold limit is judged. -/
def State.claimAfter (s : State) (k : LineNo) : ClaimState :=
  match s.claims.records[k] with
  | .won => if s.soleClaim k then .owned 0 else .idle
  | .owned n => .owned (n + 1)
  | .releasing => if s.line.plan.mark[k] = .dominant then .idle else .releasing
  | .idle => .idle
  | .contending => .contending

/-- R110, R155: the claim on line `k` becomes OWNED at this accepted frame end, and its serve flag is set. That this is so in LEAVING
too, where the flag can then be taken, is the model's choice (assumption 29). -/
def State.becomesOwned (s : State) (k : LineNo) : Bool := s.claims.records[k] == .won && s.soleClaim k

/-- R153: the edge flag of line `k` is set at this accepted frame end, from the line records as updated. -/
def State.edgeRaised (s : State) (k : LineNo) : Bool :=
  s.membership.link == .joined && s.config.lines[k].role == .watch && s.config.lines[k].trigger == .edge
    && (s.lineAfter k).rose

/-- R10, R70, R86, R87, R94, R110, R112, R116, R117, R128, R140, R153, R155: what every block does with an accepted frame but
the hold limit, the change of link state and the events. Every rule reads the state as the frame found it. -/
def State.acceptBlocks (s : State) : State :=
  { s with
    line := { s.line with lastAcceptedPlan := s.line.plan }
    membership := { s.membership with roster := Table.of s.rosterAfter, rosterBaseline := false }
    image := { s.image with lines := Table.of s.lineAfter, baseline := false }
    sources := Table.of fun i => s.sources[i].accept s.config.sources[i] s.line.samples
    claims := {
      records := Table.of s.claimAfter
      markOwed := Table.of fun k => s.claims.markOwed[k] && s.line.plan.mark[k] == .recessive }
    sender := (roundOrder s.contention.winners).foldl Sender.settleSent s.sender
    receiver := s.contention.winners.foldl (Receiver.filter s.config s.image.frameNumber) s.receiver
    dispatch := { s.dispatch with
      edgeFlags := Table.of fun k => s.dispatch.edgeFlags[k] || s.edgeRaised k
      serveFlags := Table.of fun k => s.dispatch.serveFlags[k] || s.becomesOwned k } }

/-- R113: the lines whose hold counter has reached the hold limit, in order of line number. -/
def State.expiredLines (s : State) : List LineNo :=
  (List.finRange 48).filter fun k => s.claims.records[k].holdDue s.holdLimit

/-- What an accepted frame does to the link state (R58 to R62). -/
inductive LinkVerdict where
  | stays
  | counts
  | joins
  | refused (reason : JoinRefusal)
deriving DecidableEq, Repr

/-- R61, R62: the winner list holds a HELLO with the own number and another key than the own. -/
def State.twinSeen (s : State) : Bool :=
  s.contention.winners.any fun w =>
    w.kind == .hello && w.station == s.straps.stationNumber && s.membership.helloKey != some w.key

/-- R61: the station's own HELLO won a round. -/
def State.helloWon (s : State) : Bool := s.contention.winners.any fun w => w.own == some .hello

/-- R58, R59, R61, R62, R64: the link decision of an accepted frame. -/
def State.linkVerdict (s : State) : LinkVerdict :=
  match s.membership.link with
  | .listening => if s.line.samples.roster[s.straps.stationNumber].low then .refused .numberTaken else .counts
  | .proving => if s.twinSeen then .refused .twin else if s.helloWon then .joins else .stays
  | .joined => if s.twinSeen then .refused .twin else .stays
  | .detached => .stays
  | .leaving => .stays
  | .stalled => .stays
  | .withdrawn => .stays

/-- R58, R60, R76: the membership and claim records of an accepted frame, and the link transition with the blocks' reactions.
`verdict` is the link decision, `member` and `claim` the records the units have so far. -/
def State.applyLink (s : State) (verdict : LinkVerdict) (member claim : List StationEvent) : State :=
  match verdict with
  | .stays => s.recordGroups member claim
  | .counts =>
    let s := { s with membership := { s.membership with listeningCount := s.membership.listeningCount + 1 } }
    if s.provingDue then s.becomeProving.recordGroups (member ++ [.linkChanged .proving]) claim
    else s.recordGroups member claim
  | .joins => (s.setLink .joined).recordGroups (member ++ [.linkChanged .joined]) claim
  | .refused r =>
    let s := { s with membership := { s.membership with lastRefusal := some r } }
    s.detachBlocks.recordGroups (member ++ [.joinRefused r, .linkChanged .detached]) (claim ++ s.abandonEvents)

/-- R46: an accepted frame applied by every block. -/
def State.acceptFrame (s : State) : State :=
  let s' := s.acceptBlocks
  let expired := s'.expiredLines
  (expired.foldl State.abandonClaim s').applyLink s.linkVerdict s.rosterEvents (expired.map .abandoned)

/-- R111, R129: what a voided, locally discarded or broken frame does to the claims and notices it carried. -/
def State.dropFrame (s : State) : State :=
  { s with
    claims := s.claims.dropWon
    sender := (roundOrder s.contention.winners).foldl Sender.settleVoided s.sender }

/-- R111, R129: what a frame given up at a stuck medium does to the claims and notices it carried. That several notices which become
DONE (CANCELLED) here are reported in the order of their rounds is the model's choice (assumption 20). -/
def State.dropStuck (s : State) : State :=
  { s with
    claims := s.claims.dropWon
    sender := (roundOrder s.contention.winners).foldl Sender.settleStuck s.sender }

/-- R46 steps 1 to 3: tally, accepted-frame number and level. -/
def State.settleVerdict (s : State) (outcome : FrameOutcome) (detected : Bool) : State :=
  let s := if outcome = .accepted then
    { s with image := { s.image with frameNumber := s.image.frameNumber + 1 } } else s
  s.setTally (tallyAfter outcome detected s.membership.tally)

/-- R46: the frame applied by every block, by its outcome. -/
def State.applyFrame (s : State) (outcome : FrameOutcome) : State :=
  match outcome with
  | .accepted => s.acceptFrame
  | .voided => s.dropFrame
  | .locallyDiscarded => s.dropFrame

/-- R53: withdrawal, where it is due. -/
def State.withdrawIfDue (s : State) : State := if s.withdrawalDue then s.enterWithdrawn else s

/-- R43, R44, R46: the end of the verdict beat. -/
def State.frameEndStep (s : State) (sample : Level) : State :=
  let detected := s.errors.detected
  let drive := verdictDrive s.membership.link s.membership.level detected
  let outcome := frameOutcome sample detected
  let s := s.countBeat drive .followOn
  let s := { s with errors := { s.errors with
    verdictDrive := drive
    driveFault := s.errors.driveFault || (drive == Level.dominant && sample == Level.recessive) } }
  ((s.settleVerdict outcome detected).applyFrame outcome).withdrawIfDue

/-! ## Broken frames (1.9) -/

/-- R17, R18, R45: the frame is broken: it is counted, its claims and notices fall, a round in progress is cut short, a
station in LEAVING becomes DETACHED, and a tally of 255 withdraws any other. -/
def State.breakFrame (s : State) : State :=
  let s := { s with
    errors := { s.errors with formFault := true }
    line := { s.line with phase := .noFrame, followOn := false, sld := .recessive, slb := .recessive } }
  let s := s.setTally (tallyRaised s.membership.tally 8)
  let s := s.dropFrame.handBackOffered
  if s.membership.link = .leaving then s.enterDetached else s.withdrawIfDue

/-- R18, R19: both wires released and QUIET recognition awaited; the keepalive timer restarts at the stop mark. -/
def State.unsync (s : State) : State :=
  { s with line := { s.line with
      medium := .unsynced, phase := .noFrame, followOn := false, sld := .recessive, slb := .recessive
      quietTimer := .running, guardTimer := .stopped, keepaliveTimer := .running } }

end Sys2Proof.Machine
end

