-- ==== Sys2Proof/Machine/Port.lean ====
section
/-! DEFINITION. The local port's own commands: identity, status and the reads, transactions that go wrong, and the resets
(chapter 11, with the reads of chapters 5, 6, 8 and 9). -/

namespace Sys2Proof.Machine

open Sys2Proof

/-- What a meaning answers. -/
abbrev Result := Host.Outcome State Fault Refusal

/-- IDENT (R178). -/
def execIdent (s : State) : Result := takeCommand (fun s => s.answer .ok identRecord) s

/-- STATUS (R179). -/
def execStatus (s : State) : Result := takeCommand (fun s => s.answer .ok s.statusRecord) s

/-- READ CONFIGURATION (R173). -/
def execReadConfiguration (sect index : Byte) (s : State) : Result :=
  takeCommand (fun s =>
    match s.config.entryBytes sect index with
    | some bytes => s.answer .ok (flagByte s.config.complete :: bytes)
    | none => s.answer .badArg []) s

/-- READ TRANSMIT LIST (R136). -/
def execReadTransmitList (s : State) : Result :=
  takeCommand (fun s => s.answer .ok ((List.finRange 4).flatMap s.transmitBytes)) s

/-- READ IMAGE (R102). -/
def execReadImage (first count : Byte) (s : State) : Result :=
  takeCommand (fun s =>
    if 47 < first.toNat ∨ count.toNat = 0 ∨ 48 < count.toNat ∨ 48 < first.toNat + count.toNat then s.answer .badArg []
    else s.answer .ok (twoBytes s.image.frameNumber ++
      ((List.finRange 48).filter fun k => decide (first.toNat ≤ k.val ∧ k.val < first.toNat + count.toNat)).flatMap
        fun k => s.image.lines[k].bytes k)) s

/-- READ ROSTER (R180). -/
def execReadRoster (s : State) : Result :=
  takeCommand (fun s => s.answer .ok ((List.finRange 32).map fun n => s.membership.roster[n].byte)) s

/-- READ SOURCES (R91). -/
def execReadSources (s : State) : Result :=
  takeCommand (fun s => s.answer .ok ((List.finRange 16).flatMap s.sourceBytes)) s

/-- READ QUEUES (R147): the counts are reported as they stand before they are cleared. -/
def execReadQueues (s : State) : Result :=
  takeCommand (fun s =>
    { s with receiver := {
        queueA := { s.receiver.queueA with lost := 0 }
        queueB := { s.receiver.queueB with lost := 0 } } }.answer .ok
      [BitVec.ofNat 8 s.receiver.queueA.records.length, BitVec.ofNat 8 s.receiver.queueA.lost,
        BitVec.ofNat 8 s.receiver.queueB.records.length, BitVec.ofNat 8 s.receiver.queueB.lost]) s

/-- A command byte that names no command (R176). -/
def execUnknownCommand (s : State) : Result := takeCommand (fun s => s.answer .unknownCommand []) s

/-- RESET (R181): answered OK when taken; its effect waits for the rise of LPS. -/
def execReset (s : State) : Result :=
  takeCommand (fun s =>
    let s := s.answer .ok []
    { s with port := { s.port with resetTaken := true } }) s

/-- R174, R181: LPS rises in an open transaction: a taken RESET has its effect, and LPO is released. -/
def State.lpsRise (s : State) : Result :=
  if s.port.resetTaken then .next s.resetBlocks else complete s { s with port := .idle }

/-- The rise of LPS after a taken RESET (R181). Where a pin reset has come between, it starts no second reset and is the rise that
the port waits for (R182); with no RESET taken nothing else changes. -/
def execResetAtLpsRise (s : State) : Result :=
  if s.port.resetTaken then .next s.resetBlocks
  else complete s (if s.port.phase = .waiting then { s with port := .idle } else s)

/-- R182: the local port at the end of a pin reset: with LPS low it waits for LPS to rise and fall again. -/
def LocalPort.afterPinReset (lpsLow : Bool) : LocalPort := if lpsLow then { LocalPort.idle with phase := .waiting } else .idle

/-- Pin reset (R182): the straps are latched, the key generator is set to 0 and every block takes its after-reset values; where LPS
stands at the end is a free value (assumption 15). -/
def execPinReset (stationNumber : StationNo) (beatRate : BitVec 2) (s : State) : Result :=
  .next { State.reset with
    straps := ⟨stationNumber, beatRate⟩
    port := .afterPinReset (Config.lpsLowAtReset s.freeIndex)
    freeIndex := s.freeIndex + 1
    pending := s.pending }

/-- LPS rises (R174, R176): before the command is taken the bits read are dropped and nothing else changes; after it is taken its
effect stands and the response bytes not yet read are lost; LPO is released. Each is the rise that a taken RESET waits for (R181), and
the rise that the port waits for after a pin reset (R182). -/
def execTransactionCutShort (cut : CutPoint) (s : State) : Result :=
  match cut with
  | .inCommandByte => complete s.openTransaction { s.openTransaction with port := .idle }
  | .inArguments => complete s.openTransaction { s.openTransaction with port := .idle }
  | .inResponse => s.lpsRise
  | .afterResponse => s.lpsRise

end Sys2Proof.Machine
end

