-- ==== Sys2Proof/Machine/Beats.lean ====
section
/-! DEFINITION. The beats of a frame: the two edges of SLB, the enter beat, the end of a round, the verdict beat's end and the
follow-on beat (chapters 1 to 3). -/

namespace Sys2Proof.Machine

open Sys2Proof

/-- What the station drives on SLD from the fall of SLB, by phase (R7, R14, R15, R23, R30, R32, R43). -/
def State.beatDrive (s : State) : Level :=
  match s.line.phase with
  | .slots => s.slotDrive s.line.beatCount
  | .word => if s.contention.role = .contender then s.ownWordBeat s.contention.word.length else .recessive
  | .body => if s.contention.role = .contender then s.ownBodyBeat s.contention.body.length else .recessive
  | .verdict => verdictDrive s.membership.link s.membership.level s.errors.detected
  | .closing => .dominant
  | .noFrame => s.line.sld
  | .enter => Level.pull (s.lowestItem s.candidates).isSome
  | .followOn => Level.pull s.news
  | .roundEnd => s.line.sld
  | .closed => s.line.sld

/-- R14: the low half of the follow-on beat: driven dominant on news, and remembered. -/
def State.followOnFall (s : State) : State :=
  { s with line := { s.line with slb := .dominant, sld := Level.pull s.news, followOn := s.news } }

/-- R6: the low half of a beat begins: the station pulls SLB and sets its SLD drive; at an enter beat its item is offered (R26), at
the follow-on beat its drive is remembered (R14), and at the verdict beat its drive is entered in the error record (R40). That the
station's own pull on SLB stands until the beat's end, and not for half its own beat period only, is the model's choice
(assumption 30). -/
def State.fallSlb (s : State) : State :=
  if s.line.phase = .enter then s.enterFall
  else if s.line.phase = .followOn then s.followOnFall
  else
    { s with
      line := { s.line with slb := .dominant, sld := s.beatDrive }
      errors := if s.line.phase = .verdict then { s.errors with verdictDrive := s.beatDrive } else s.errors }

/-- R6, R15: SLB can begin a beat: in a frame, outside a beat, and not after the closing beat. -/
def State.mayFall (s : State) : Bool :=
  s.line.medium == .inFrame && s.line.slb == .recessive && s.line.phase != .closed && s.line.phase != .noFrame

/-- BEAT_START (R6, R7). -/
def execBeatStart (s : State) : Result := complete s (if s.mayFall then s.settleRound.fallSlb else s)

/-- R14: the follow-on beat up to its end: what BEAT_START has not done yet, and then the rise of SLB. -/
def State.followOnStep (s : State) : State :=
  let s := if s.line.slb = .dominant then s else s.followOnFall
  s.countBeat (Level.pull s.line.followOn) .closing

/-- R7: the end of a beat, by phase; the enter beat, the verdict beat and the follow-on beat end by their own steps. After the
closing beat the station releases SLD and waits for both wires high, whatever the wires do (R15); the half beat period that it
holds SLD before is timing (assumption 10). -/
def State.riseSlb (s : State) (sample : Level) : State :=
  match s.line.phase with
  | .slots => s.slotEnd sample
  | .enter => s.enterStep sample
  | .word => s.wordEnd sample
  | .body => s.bodyEnd sample
  | .verdict => s.frameEndStep sample
  | .followOn => s.followOnStep
  | .closing => s.countBeat .recessive .closed
  | .roundEnd => s
  | .noFrame => s
  | .closed => s

/-- R6: a beat is in progress, so that SLB can rise. -/
def State.mayRise (s : State) : Bool := s.line.medium == .inFrame && s.line.slb == .dominant

/-- BEAT_END (R6, R7). -/
def execBeatEnd (sample : Level) (s : State) : Result := complete s (if s.mayRise then s.riseSlb sample else s)

/-- The station is in a frame and its next beat, or the beat in progress, is of the phase given. -/
def State.atPhase (s : State) (p : Phase) : Bool := s.line.medium == .inFrame && s.line.phase == p

/-- ENTER_BEAT (R23): a whole enter beat, after a round's end that is still due. -/
def execEnterBeat (sample : Level) (s : State) : Result :=
  complete s (if s.settleRound.atPhase .enter then s.settleRound.enterStep sample else s)

/-- ROUND_ENDED_WITH_WINNER (R36). -/
def execRoundEndedWithWinner (s : State) : Result := complete s s.settleRound

/-- FRAME_END (R46): the end of the verdict beat, after a round's end that is still due. -/
def execFrameEnd (sample : Level) (s : State) : Result :=
  complete s (if s.settleRound.atPhase .verdict then s.settleRound.frameEndStep sample else s)

/-- FOLLOW_ON_BEAT (R14). -/
def execFollowOnBeat (s : State) : Result := complete s (if s.atPhase .followOn then s.followOnStep else s)

end Sys2Proof.Machine
end

