-- ==== Sys2Proof/Machine/Configure.lean ====
section
/-! DEFINITION. The four CONFIGURE commands (R169 to R172). -/

namespace Sys2Proof.Machine

open Sys2Proof

/-- R169: the answer table of the CONFIGURE commands: REFUSED outside DETACHED, BAD_ARG where the arguments name no entry,
otherwise OK with the entry replaced as a whole. -/
def configure {α : Type} (read : Option α) (write : Configuration → α → Configuration) (s : State) : State :=
  if s.membership.link ≠ .detached then s.answer .refused []
  else
    match read with
    | none => s.answer .badArg []
    | some entry => { s with config := write s.config entry }.answer .ok []

/-- CONFIGURE STATION (R170): it also sets the configuration-complete flag. -/
def execConfigureStation
    (keepalive holdLimit options rankA rankB rankTransmit rankStation policies defaultAction : Byte) (s : State) :
    Result :=
  takeCommand (configure
    (readStation keepalive holdLimit options rankA rankB rankTransmit rankStation policies defaultAction)
    fun c entry => { c with station := entry, complete := true }) s

/-- CONFIGURE LINE (R171). -/
def execConfigureLine (line role options rank urgency : Byte) (s : State) : Result :=
  takeCommand (configure (readLine line role options rank urgency)
    fun c entry => { c with lines := c.lines.put entry.1 entry.2 }) s

/-- CONFIGURE SOURCE (R171). -/
def execConfigureSource (index line discipline pulseFrames polarity : Byte) (s : State) : Result :=
  takeCommand (configure (readSource index line discipline pulseFrames polarity)
    fun c entry => { c with sources := c.sources.put entry.1 entry.2 }) s

/-- CONFIGURE FILTER (R171, R137). -/
def execConfigureFilter (index options : Byte) (first second : Word16) (sender action : Byte) (s : State) : Result :=
  takeCommand (configure (readFilter index options first second sender action)
    fun c entry => { c with filters := c.filters.put entry.1 entry.2 }) s

end Sys2Proof.Machine
end

