-- ==== Sys2Proof/Machine/Delivery.lean ====
section
/-! DEFINITION. TAKE, FINISH, MASK and UNMASK (chapter 10). -/

namespace Sys2Proof.Machine

open Sys2Proof

/-! ## Selection and token -/

/-- The lowest rank among sources. -/
def State.lowestRank (s : State) : List DeliveryNo → Rank
  | [] => 15
  | [d] => s.rankOf d
  | d :: ds => if s.rankOf d ≤ s.lowestRank ds then s.rankOf d else s.lowestRank ds

/-- The index of a rank's rotation pointer. -/
def rankIndex (r : Rank) : Fin 16 := ⟨r.toNat, r.isLt⟩

/-- R157: the source TAKE selects. -/
def State.selected (s : State) : Option DeliveryNo :=
  let rank := s.lowestRank s.presentables
  let best := s.presentables.filter fun d => s.rankOf d == rank
  match s.config.station.rotate, s.dispatch.pointers[rankIndex rank] with
  | true, some p => (best.find? fun d => decide (p < d)) <|> best.head?
  | true, none => best.head?
  | false, _ => best.head?

/-- R161: the value that follows in the cycle 1 to 255. -/
def nextToken (t : Byte) : Byte := if t = 255 then 1 else t + 1

/-- R161: the first value from `t` on in the cycle that no entry holds; `fuel` is the number of entries. -/
def freshToken (held : List Byte) : Nat → Byte → Byte
  | 0, t => t
  | fuel + 1, t => if t ∈ held then freshToken held fuel (nextToken t) else t

/-- R161: the token a TAKE gives. -/
def Dispatch.freshToken (d : Dispatch) : Byte :=
  Machine.freshToken (d.inService.map (·.token)) d.inService.length d.tokenCounter

/-! ## TAKE -/

/-- R162: the payload of a source's delivery. -/
def State.payload (s : State) (d : DeliveryNo) : List Byte :=
  match deliverySource d with
  | .line k => if s.config.lines[k].role = .serve then s.servePayload k else s.watchPayload k
  | .noticeA =>
    match s.receiver.queueA.records with
    | r :: _ => r.payload 0
    | [] => []
  | .noticeB =>
    match s.receiver.queueB.records with
    | r :: _ => r.payload 1
    | [] => []
  | .transmit =>
    match s.sender.reports with
    | h :: _ =>
      match s.sender.entries[h] with
      | some e => [BitVec.ofNat 8 h.val] ++ twoBytes (e.tag.setWidth 16) ++ [e.state.outcomeCode]
      | none => []
    | [] => []
  | .station =>
    match s.membership.events with
    | r :: _ => r.payload
    | [] => []

/-- R162: what is taken from the selected source. -/
def State.takeFrom (s : State) (d : DeliveryNo) : State :=
  match deliverySource d with
  | .line k =>
    match s.config.lines[k].role, s.config.lines[k].trigger with
    | .serve, _ => { s with dispatch := { s.dispatch with serveFlags := s.dispatch.serveFlags.put k false } }
    | .watch, .edge => { s with dispatch := { s.dispatch with edgeFlags := s.dispatch.edgeFlags.put k false } }
    | .watch, .level => s
    | .unused, _ => s
  | .noticeA =>
    { s with receiver := { s.receiver with
        queueA := { s.receiver.queueA with records := s.receiver.queueA.records.drop 1 } } }
  | .noticeB =>
    { s with receiver := { s.receiver with
        queueB := { s.receiver.queueB with records := s.receiver.queueB.records.drop 1 } } }
  | .transmit =>
    match s.sender.reports with
    | h :: hs => { s with sender := { s.sender with entries := s.sender.entries.put h none, reports := hs } }
    | [] => s
  | .station => { s with membership := { s.membership with events := s.membership.events.drop 1 } }

/-- R162: the entry a TAKE of source `d` appends. -/
def State.serviceEntry (s : State) (d : DeliveryNo) : ServiceEntry where
  token := s.dispatch.freshToken
  source := d
  kind := s.kindOf d
  rank := s.rankOf d
  orphaned := false

/-- R161, R162, R157: the entry appended, the counter advanced and the rotation pointer of the rank set. That the pointer is set with
rotate off too is the model's reading (assumption 25). -/
def State.openEntry (s : State) (d : DeliveryNo) : State :=
  let e := s.serviceEntry d
  { s with dispatch := { s.dispatch with
      inService := s.dispatch.inService ++ [e]
      tokenCounter := nextToken e.token
      pointers := s.dispatch.pointers.put (rankIndex e.rank) (some d) } }

/-- R162, 11.7.8: the header of a delivery record. -/
def State.deliveryHeader (s : State) (d : DeliveryNo) : List Byte :=
  let e := s.serviceEntry d
  [e.token, BitVec.ofNat 8 d.val, e.kind.code, e.rank.setWidth 8, flagByte s.dispatch.withdrawn]

/-- R159: the withdrawn flag cleared, and ATTN as the presentable sources now ask. -/
def State.clearWithdrawn (s : State) : State :=
  { s with dispatch := { s.dispatch with withdrawn := false, attnLow := s.attentionDue } }

/-- R162: TAKE's effect and answer. -/
def State.taken (s : State) : State :=
  match s.selected with
  | none => (s.answer .empty [flagByte s.dispatch.withdrawn]).clearWithdrawn
  | some d =>
    (((s.openEntry d).takeFrom d).answer .ok (s.deliveryHeader d ++ s.payload d)).clearWithdrawn

/-- TAKE (R162). -/
def execTake (s : State) : Result := .next s.openTransaction.taken

/-! ## FINISH -/

/-- R165: the finish of an entry that is not orphaned handed on by kind. -/
def State.handOn (s : State) (e : ServiceEntry) : State :=
  match e.kind, deliverySource e.source with
  | .lineServe, .line k =>
    match s.claims.records[k] with
    | .owned _ => { s with claims := s.claims.setRecord k .releasing }
    | .idle => s
    | .contending => s
    | .won => s
    | .releasing => s
  | .lineWatch, .line k =>
    if s.config.lines[k].acknowledge then
      { s with claims := { s.claims with markOwed := s.claims.markOwed.put k true } }
    else s
  | _, _ => s

/-- R164: entry `e` removed, which leaves the list `rest`, and answered. -/
def State.finishEntry (s : State) (e : ServiceEntry) (rest : List ServiceEntry) : State :=
  let s := { s with dispatch := { s.dispatch with inService := rest } }
  if e.orphaned then s.answer .orphaned [] else (s.handOn e).answer .ok []

/-- FINISH NEWEST (R164). -/
def execFinishNewest (s : State) : Result :=
  takeCommand (fun s =>
    match s.dispatch.inService.getLast? with
    | none => s.answer .empty []
    | some e => s.finishEntry e s.dispatch.inService.dropLast) s

/-- FINISH with a token (R164). -/
def execFinish (token : Byte) (s : State) : Result :=
  takeCommand (fun s =>
    if token = 0 then s.answer .badArg []
    else if s.dispatch.inService.isEmpty then s.answer .empty []
    else
      match s.dispatch.inService.find? (·.token == token) with
      | none => s.answer .unknownToken []
      | some e => s.finishEntry e (s.dispatch.inService.eraseP (·.token == token))) s

/-! ## Masks -/

/-- R151: the mask of one source written, or BAD_ARG. -/
def State.setMask (s : State) (source : Byte) (mask : Bool) : State :=
  match readIndex 52 source with
  | none => s.answer .badArg []
  | some d => { s with dispatch := { s.dispatch with masks := s.dispatch.masks.put d mask } }.answer .ok []

/-- MASK (R151). -/
def execMask (source : Byte) (s : State) : Result := takeCommand (·.setMask source true) s

/-- UNMASK (R151). -/
def execUnmask (source : Byte) (s : State) : Result := takeCommand (·.setMask source false) s

end Sys2Proof.Machine
end

