-- ==== Sys2Proof/Machine/Medium.lean ====
section
/-! DEFINITION. What happens at the wires outside the beats: recognition, timers, start and stop marks, breaks and a stuck
medium (chapter 1, with the stall and break rules of chapters 3 and 4). -/

namespace Sys2Proof.Machine

open Sys2Proof

/-- The link state a stalled station returns to (R67). -/
def Remembered.link : Remembered → LinkState
  | .listening => .listening
  | .proving => .proving
  | .joined => .joined

/-- R67: the return from STALLED. -/
def State.stallReturn (s : State) : State :=
  match s.membership.remembered with
  | none => s
  | some r =>
    { s with membership := { s.membership with
        link := r.link, remembered := none
        listeningCount := if r = Remembered.listening then 0 else s.membership.listeningCount } }.record (.linkChanged r.link)

/-- R4, R21: QUIET recognition completed. -/
def State.becomeQuiet (s : State) : State :=
  let s := { s with line := { s.line with
    medium := .quiet, quietTimer := .stopped, guardTimer := .reached, keepaliveTimer := .running
    stuckTimer := .running } }
  if s.membership.link = .stalled then s.stallReturn else s

/-- R4: the quiet count runs in UNSYNCED and STALLED while the line controller is not idle. -/
def State.awaitsQuiet (s : State) : Bool :=
  !s.membership.link.lineIdle && (s.line.medium == .unsynced || s.line.medium == .stalled)

/-- MEDIUM_QUIET (R4, R21, R67). -/
def execMediumQuiet (s : State) : Result := complete s (if s.awaitsQuiet then s.becomeQuiet else s)

/-- KEEPALIVE_EXPIRED (R11): a running timer reaches the interval and stays expired. -/
def execKeepaliveExpired (s : State) : Result :=
  complete s (if s.line.keepaliveTimer = .running then
    { s with line := { s.line with keepaliveTimer := .reached } } else s)

/-- GUARD_PASSED (R13): a running guard count reaches 2 beat periods. -/
def execGuardPassed (s : State) : Result :=
  complete s (if s.line.guardTimer = .running then
    { s with line := { s.line with guardTimer := .reached } } else s)

/-- R13: the station opens a frame. -/
def State.mayOpen (s : State) : Bool :=
  s.line.medium == .quiet && s.membership.link.mayStart && s.line.guardTimer == .reached
    && (s.line.keepaliveTimer == .reached || s.news)

/-- OPEN_FRAME (R13, R5): the station's own pull is the start mark. -/
def execOpenFrame (s : State) : Result := complete s (if s.mayOpen then s.startFrame true else s)

/-- R16: the start mark asked for at the follow-on beat is made. -/
def State.mayFollowOn (s : State) : Bool :=
  s.line.followOn && s.line.medium == .quiet && s.line.guardTimer == .reached
    && (s.membership.link == .proving || s.membership.link == .joined)

/-- FOLLOW_ON_START (R16, R5): it does not test for news again. -/
def execFollowOnStart (s : State) : Result := complete s (if s.mayFollowOn then s.startFrame true else s)

/-- R5: a start mark seen in QUIET is observed. -/
def State.observesStart (s : State) : Bool := s.line.medium == .quiet && s.membership.link.mayStart

/-- START_OBSERVED (R5). -/
def execStartObserved (s : State) : Result := complete s (if s.observesStart then s.startFrame false else s)

/-- R15: the frame's end on the wires. -/
def State.frameClosed (s : State) : State :=
  let s := { s with line := { s.line with
    medium := .quiet, phase := .noFrame, sld := .recessive, slb := .recessive
    guardTimer := .running, keepaliveTimer := .running } }
  if s.membership.link = .leaving then s.enterDetached else s

/-- STOP_OBSERVED (R15, R64): after the closing beat. -/
def execStopObserved (s : State) : Result :=
  complete s (if s.line.medium = .inFrame ∧ s.line.phase = .closed then s.frameClosed else s)

/-- The phases from the start mark up to the end of the verdict beat, in which a mark breaks the frame (R17, R18). -/
def Phase.beforeOutcome : Phase → Bool
  | .slots | .enter | .word | .body | .roundEnd | .verdict => true
  | .noFrame | .followOn | .closing | .closed => false

/-- R17, R18: the station is inside a frame whose outcome is not yet fixed. That a mark command is taken within the low half of a beat
too, where no mark can fall (1.4), is the model's choice (assumption 26). -/
def State.breakable (s : State) : Bool := s.line.medium == .inFrame && s.line.phase.beforeOutcome

/-- R19: the station is between the verdict beat and the end of the closing beat. That a mark command is taken within the low half of
a beat too, where no mark can fall (1.4), is the model's choice (assumption 26). -/
def State.lateInFrame (s : State) : Bool :=
  s.line.medium == .inFrame && (s.line.phase == .followOn || s.line.phase == .closing)

/-- FRAME_BROKEN_BY_START (R17): the frame is broken and the mark opens a new one. That the mark clears neither error marks nor
contention state where it leaves the station DETACHED or WITHDRAWN is the model's choice (assumption 23). -/
def execFrameBrokenByStart (s : State) : Result :=
  complete s (if s.breakable then
    let s := s.settleRound.breakFrame
    if s.membership.link.mayStart then s.startFrame false else s
  else s)

/-- FRAME_BROKEN_BY_STOP (R18). -/
def execFrameBrokenByStop (s : State) : Result :=
  complete s (if s.breakable then
    let s := s.settleRound.breakFrame
    if s.membership.link.mayStart then s.unsync else s
  else s)

/-- LATE_MARK (R19): the outcome stands; the frame ends for the station. That a start mark clears neither error marks nor contention
state where it leaves the station DETACHED is the model's choice (assumption 23). -/
def execLateMark (mark : MarkKind) (s : State) : Result :=
  complete s (if s.lateInFrame then
    if s.membership.link = .leaving then s.enterDetached
    else
      match mark with
      | .start => s.startFrame false
      | .stop => s.unsync
  else s)

/-- The state a station that stalls remembers (R66). -/
def LinkState.remember : LinkState → Option Remembered
  | .listening => some .listening
  | .proving => some .proving
  | .joined => some .joined
  | .detached => none
  | .leaving => none
  | .stalled => none
  | .withdrawn => none

/-- R20: the stuck timer runs. -/
def State.stuckWatched (s : State) : Bool := !s.membership.link.lineIdle && s.line.medium != .stalled

/-- R20, R66: the medium is stuck: the wires are released, the frame is given up, and the link state stalls or ends. -/
def State.stall (s : State) : State :=
  let s := s.dropStuck.handBackOffered
  let s := { s with line := { s.line with
    medium := .stalled, phase := .noFrame, followOn := false, sld := .recessive, slb := .recessive
    quietTimer := .running, guardTimer := .stopped, stuckTimer := .stopped } }
  match s.membership.link.remember with
  | some r =>
    { s with membership := { s.membership with link := .stalled, remembered := some r } }.record (.linkChanged .stalled)
  | none => if s.membership.link = .leaving then s.enterDetached else s

/-- MEDIUM_STUCK (R20, R66). -/
def execMediumStuck (s : State) : Result := complete s (if s.stuckWatched then s.settleRound.stall else s)

end Sys2Proof.Machine
end

