-- ==== Sys2Proof/Machine/Membership.lean ====
section
/-! DEFINITION. JOIN and LEAVE, and the membership unit's steps that a count brings about: PROVING_ENTRY, PEER_LOST and
WITHDRAWAL (chapters 3 and 4). -/

namespace Sys2Proof.Machine

open Sys2Proof

/-- R57, R48, R47, R10, R69, R101, R3: what a taken JOIN does, its events included. -/
def State.joinTaken (s : State) : State :=
  let wasClean := s.membership.level == .clean
  let s := { s with
    membership := { s.membership.emptyRoster with
      tally := 0, level := .clean, listeningCount := 0, helloKey := none, remembered := none, link := .listening }
    image := .reset
    line := { s.line.idle with
      lastAcceptedPlan := .silent
      quietTimer := .running, keepaliveTimer := .running, stuckTimer := .running } }
  (if wasClean then s else s.record (.levelChanged .clean)).record (.linkChanged .listening)

/-- JOIN (R57). -/
def execJoin (s : State) : Result :=
  takeCommand (fun s =>
    if s.membership.link ≠ .detached then s.answer .refused []
    else if s.config.complete then s.joinTaken.answer .ok []
    else s.answer .incomplete []) s

/-- LEAVE (R63). -/
def execLeave (s : State) : Result :=
  takeCommand (fun s =>
    match s.membership.link with
    | .detached => s.answer .refused []
    | .leaving => s.answer .refused []
    | .proving =>
      if s.line.medium = .inFrame then (s.changeLink .leaving).answer .ok [] else s.enterDetached.answer .ok []
    | .joined =>
      if s.line.medium = .inFrame then (s.changeLink .leaving).answer .ok [] else s.enterDetached.answer .ok []
    | .listening => s.enterDetached.answer .ok []
    | .stalled => s.enterDetached.answer .ok []
    | .withdrawn => s.enterDetached.answer .ok []) s

/-- WITHDRAWAL (R53), where the tally stands at 255 in a state from which a station is withdrawn. -/
def execWithdrawal (s : State) : Result := complete s s.withdrawIfDue

/-- PROVING_ENTRY (R60), where the listening count stands at 2. -/
def execProvingEntry (s : State) : Result :=
  complete s (if s.provingDue then s.becomeProving.record (.linkChanged .proving) else s)

/-- R70 to R72, R96: station `n` lost: its entry ABSENT, its event recorded, and every line it owned without a named owner. -/
def State.losePeer (s : State) (n : StationNo) : State :=
  let reported := s.config.station.reportPeers && !s.membership.rosterBaseline
  let s := { s with
    membership := { s.membership with roster := s.membership.roster.put n .absent }
    image := { s.image with lines := Table.of fun k =>
      { s.image.lines[k] with owner := removeOwner (· == n) s.image.lines[k].held s.image.lines[k].owner } } }
  if reported then s.record (.peerLost n) else s

/-- PEER_LOST (R70), where the absent count of the entry has passed 2. -/
def execPeerLost (n : StationNo) (s : State) : Result :=
  complete s (if s.membership.roster[n].lossDue then s.losePeer n else s)

end Sys2Proof.Machine
end

