-- ==== Sys2Proof/Machine/Notices.lean ====
section
/-! DEFINITION. POST NOTICE, CANCEL NOTICE and the end of a notice whose sendings failed (chapter 8), and the end of a claim at
its hold limit (chapter 7). -/

namespace Sys2Proof.Machine

open Sys2Proof

/-- R126: the link states in which POST NOTICE is refused. -/
def LinkState.refusesPosts : LinkState → Bool
  | .detached | .leaving | .withdrawn => true
  | .listening | .proving | .joined | .stalled => false

/-- R126: tag, urgency and length in range, and the data bytes the length gives. -/
def readNotice (tag : Word16) (urgency length : Byte) (data : List Byte) : Option (Tag × Urgency × List Byte) := do
  let tag ← readTag tag
  let urgency ← readNibble urgency
  if length.toNat ≤ 8 then return (tag, urgency, data.take (postedBytes length)) else none

/-- R125, R126: the lowest-numbered FREE entry. -/
def Sender.firstFree (t : Sender) : Option Handle := (List.finRange 4).find? fun h => t.entries[h].isNone

/-- R126: the entry of handle `h` filled as WAITING and its handle appended to the posting order. -/
def Sender.post (t : Sender) (h : Handle) (tag : Tag) (urgency : Urgency) (data : List Byte) : Sender :=
  { t with
    entries := t.entries.put h (some { tag, urgency, data, voidCount := 0, cancelRequested := false, state := .waiting })
    posting := t.posting ++ [h] }

/-- POST NOTICE (R126). -/
def execPostNotice (tag : Word16) (urgency length : Byte) (data : List Byte) (s : State) : Result :=
  takeCommand (fun s =>
    if s.membership.link.refusesPosts then s.answer .refused []
    else
      match readNotice tag urgency length data, s.sender.firstFree with
      | none, _ => s.answer .badArg []
      | some _, none => s.answer .full []
      | some (tag, urgency, data), some h =>
        { s with sender := s.sender.post h tag urgency data }.answer .ok [BitVec.ofNat 8 h.val]) s

/-- R130: a WAITING entry freed without a report. -/
def Sender.free (t : Sender) (h : Handle) : Sender :=
  { t with entries := t.entries.put h none, posting := t.posting.filter (· ≠ h) }

/-- CANCEL NOTICE (R130). -/
def execCancelNotice (handle : Byte) (s : State) : Result :=
  takeCommand (fun s =>
    match readIndex 4 handle with
    | none => s.answer .badArg []
    | some h =>
      match s.sender.entries[h] with
      | none => s.answer .refused []
      | some e =>
        match e.state with
        | .waiting => { s with sender := s.sender.free h }.answer .ok []
        | .contending => { s with sender := s.sender.setEntry h (some { e with cancelRequested := true }) }.answer .deferred []
        | .won => { s with sender := s.sender.setEntry h (some { e with cancelRequested := true }) }.answer .deferred []
        | .done _ => s.answer .refused []) s

/-- NOTICE_VOIDED_OUT (R129), where a WON entry's void count stands at 8 with no cancel requested. -/
def execNoticeVoidedOut (h : Handle) (s : State) : Result :=
  complete s (match s.sender.entries[h] with
    | some e => if e.voidDue then { s with sender := s.sender.done h e .voidedOut } else s
    | none => s)

/-- HOLD_LIMIT_ABANDON (R113), where the hold counter of line `k` stands at the hold limit. -/
def execHoldLimitAbandon (k : LineNo) (s : State) : Result :=
  complete s (if s.claims.records[k].holdDue s.holdLimit then (s.abandonClaim k).record (.abandoned k) else s)

end Sys2Proof.Machine
end

