-- ==== Sys2Proof/Machine/Sources.lean ====
section
/-! DEFINITION. The source unit's commands: soft sources, qualified pin levels and the expiry of a pulse (chapter 5). -/

namespace Sys2Proof.Machine

open Sys2Proof

/-- One source's running state written. -/
def State.setSource (s : State) (i : SourceNo) (r : SourceRun) : State := { s with sources := s.sources.put i r }

/-- R84: an active edge of source `i`, taken or discarded by the link state. -/
def State.takeEdge (s : State) (i : SourceNo) : State :=
  if s.membership.link.takesEdges then s.setSource i (s.sources[i].edge s.config.sources[i]) else s

/-- The source index of a soft source (R81). -/
def softIndex (k : Fin 4) : SourceNo := ⟨12 + k.val, by omega⟩

/-- The source index of a pin (R77). -/
def pinIndex (p : PinNo) : SourceNo := ⟨p.val, by omega⟩

/-- R81, R82: the answer table of the two soft source commands. That a number above 3 is answered BAD_ARG in DETACHED and WITHDRAWN
too is the model's choice (assumption 24). -/
def softCommand (soft : Byte) (effect : SourceNo → State → State) (s : State) : State :=
  match readIndex 4 soft with
  | none => s.answer .badArg []
  | some k => if s.membership.link.takesEdges then (effect (softIndex k) s).answer .ok [] else s.answer .refused []

/-- ASSERT SOURCE (R81). -/
def execAssertSource (soft : Byte) (s : State) : Result :=
  takeCommand (softCommand soft fun i s =>
    (s.setSource i { s.sources[i] with softActive := true }).takeEdge i) s

/-- RELEASE SOURCE (R82). -/
def execReleaseSource (soft : Byte) (s : State) : Result :=
  takeCommand (softCommand soft fun i s => s.setSource i { s.sources[i] with softActive := false }) s

/-- R79, R80: pin `p` settles at a level: the first setting gives no edge; a change from inactive to active is an edge. -/
def State.pinSettles (s : State) (p : PinNo) (level : PinLevel) : State :=
  let i := pinIndex p
  let polarity := s.config.sources[i].polarity
  let before := s.sources[i].filtered
  let s := s.setSource i { s.sources[i] with filtered := some level }
  if before.isSome && !pinActive polarity before && pinActive polarity (some level) then s.takeEdge i else s

/-- QUALIFIED_LEVEL_CHANGE (R79, R80). -/
def execQualifiedLevelChange (p : PinNo) (level : PinLevel) (s : State) : Result := complete s (s.pinSettles p level)

/-- PULSE_EXPIRY (R86), where a HOLDING PULSE source's count stands at 0. -/
def execPulseExpiry (i : SourceNo) (s : State) : Result :=
  complete s (if s.config.sources[i].discipline = .pulse then
    s.setSource i (s.sources[i].expirePulse s.config.sources[i]) else s)

end Sys2Proof.Machine
end

