-- ==== Sys2Proof/Machine/Dispatch.lean ====
section
/-! DEFINITION. One arm per command: the meaning it calls. -/

namespace Sys2Proof.Machine

open Sys2Proof

def exec (i : Instr) (s : State) : Host.Outcome State Fault Refusal :=
  match i with
  | .ident => Sys2Proof.Machine.execIdent s
  | .status => Sys2Proof.Machine.execStatus s
  | .configureStation keepalive holdLimit options rankA rankB rankTransmit rankStation policies defaultAction => Sys2Proof.Machine.execConfigureStation keepalive holdLimit options rankA rankB rankTransmit rankStation policies defaultAction s
  | .configureLine line role options rank urgency => Sys2Proof.Machine.execConfigureLine line role options rank urgency s
  | .configureSource index line discipline pulseFrames polarity => Sys2Proof.Machine.execConfigureSource index line discipline pulseFrames polarity s
  | .configureFilter index options first second sender action => Sys2Proof.Machine.execConfigureFilter index options first second sender action s
  | .readConfiguration sect index => Sys2Proof.Machine.execReadConfiguration sect index s
  | .join => Sys2Proof.Machine.execJoin s
  | .leave => Sys2Proof.Machine.execLeave s
  | .reset => Sys2Proof.Machine.execReset s
  | .resetAtLpsRise => Sys2Proof.Machine.execResetAtLpsRise s
  | .pinReset stationNumber beatRate => Sys2Proof.Machine.execPinReset stationNumber beatRate s
  | .take => Sys2Proof.Machine.execTake s
  | .finishNewest => Sys2Proof.Machine.execFinishNewest s
  | .finish token => Sys2Proof.Machine.execFinish token s
  | .mask source => Sys2Proof.Machine.execMask source s
  | .unmask source => Sys2Proof.Machine.execUnmask source s
  | .assertSource soft => Sys2Proof.Machine.execAssertSource soft s
  | .releaseSource soft => Sys2Proof.Machine.execReleaseSource soft s
  | .postNotice tag urgency length data => Sys2Proof.Machine.execPostNotice tag urgency length data s
  | .cancelNotice handle => Sys2Proof.Machine.execCancelNotice handle s
  | .readTransmitList => Sys2Proof.Machine.execReadTransmitList s
  | .readImage first count => Sys2Proof.Machine.execReadImage first count s
  | .readRoster => Sys2Proof.Machine.execReadRoster s
  | .readSources => Sys2Proof.Machine.execReadSources s
  | .readQueues => Sys2Proof.Machine.execReadQueues s
  | .unknownCommand => Sys2Proof.Machine.execUnknownCommand s
  | .transactionCutShort cut => Sys2Proof.Machine.execTransactionCutShort cut s
  | .qualifiedLevelChange pin level => Sys2Proof.Machine.execQualifiedLevelChange pin level s
  | .mediumQuiet => Sys2Proof.Machine.execMediumQuiet s
  | .keepaliveExpired => Sys2Proof.Machine.execKeepaliveExpired s
  | .guardPassed => Sys2Proof.Machine.execGuardPassed s
  | .openFrame => Sys2Proof.Machine.execOpenFrame s
  | .followOnStart => Sys2Proof.Machine.execFollowOnStart s
  | .startObserved => Sys2Proof.Machine.execStartObserved s
  | .enterBeat sample => Sys2Proof.Machine.execEnterBeat sample s
  | .roundEndedWithWinner => Sys2Proof.Machine.execRoundEndedWithWinner s
  | .frameEnd sample => Sys2Proof.Machine.execFrameEnd sample s
  | .withdrawal => Sys2Proof.Machine.execWithdrawal s
  | .provingEntry => Sys2Proof.Machine.execProvingEntry s
  | .peerLost station => Sys2Proof.Machine.execPeerLost station s
  | .pulseExpiry source => Sys2Proof.Machine.execPulseExpiry source s
  | .holdLimitAbandon line => Sys2Proof.Machine.execHoldLimitAbandon line s
  | .noticeVoidedOut handle => Sys2Proof.Machine.execNoticeVoidedOut handle s
  | .followOnBeat => Sys2Proof.Machine.execFollowOnBeat s
  | .stopObserved => Sys2Proof.Machine.execStopObserved s
  | .frameBrokenByStart => Sys2Proof.Machine.execFrameBrokenByStart s
  | .frameBrokenByStop => Sys2Proof.Machine.execFrameBrokenByStop s
  | .lateMark mark => Sys2Proof.Machine.execLateMark mark s
  | .mediumStuck => Sys2Proof.Machine.execMediumStuck s
  | .beatStart => Sys2Proof.Machine.execBeatStart s
  | .beatEnd sample => Sys2Proof.Machine.execBeatEnd sample s

end Sys2Proof.Machine
end

