-- ==== Sys2Proof/Machine/Step.lean ====
section
/-! DEFINITION. One step: the command at the front of the queue, or, on an empty queue, one period of the clocks. -/

namespace Sys2Proof.Machine

open Sys2Proof

/-- The step. On an empty queue the block idles for one period of the reference clock, in which a transaction may begin at the
local port, an open one reads its next bit, or an answer gives its next bit (assumptions 3 and 14). -/
def step (s : State) : Host.Outcome State Fault Refusal :=
  match s.pending with
  | [] => .next s.clockPeriod
  | c :: cs => exec c { s with pending := cs }

/-- The state with the command a word spells at the front of its queue; no word spells one (assumption 6). -/
def State.withFetchWord (s : State) (nbits w : Nat) : State :=
  match decodeTableWord nbits w with
  | some c => { s with pending := c :: s.pending }
  | none => s

end Sys2Proof.Machine
end

