-- ==== Sys2Proof/Safety.lean ====
section
/-! DEFINITION. What counts as a safe state: the invariants of the station that the claims are stated in. -/

namespace Sys2Proof.Machine

open Sys2Proof

/-- R49: the level and the tally stand as a pair that can stand. -/
def State.TallyOk (s : State) : Prop := tallyInRange s.membership.level s.membership.tally = true

/-- R1, R3, R63, R66: the station drives the wires only in a frame; an off-line station's line controller is idle; the link state
is STALLED exactly when the medium is; a frame has participants only. -/
structure State.LineOk (s : State) : Prop where
  quietWires : s.line.medium ≠ .inFrame → s.line.sld = .recessive ∧ s.line.slb = .recessive ∧ s.line.phase = .noFrame
  idle : s.membership.link.lineIdle = true → s.line.medium = .unsynced
  stalled : s.membership.link = .stalled ↔ s.line.medium = .stalled
  remembers : s.membership.link = .stalled → s.membership.remembered.isSome = true
  leaving : s.membership.link = .leaving → s.line.medium = .inFrame

/-- R160, R161: at most four entries in service, their sources distinct, their tokens distinct and never 0. -/
structure State.ServiceOk (s : State) : Prop where
  atMostFour : s.dispatch.inService.length ≤ 4
  sources : (s.dispatch.inService.map (·.source)).Nodup
  tokens : (s.dispatch.inService.map (·.token)).Nodup
  nonzero : ∀ e ∈ s.dispatch.inService, e.token ≠ 0
  counter : s.dispatch.tokenCounter ≠ 0

/-- R73, R142: the event queue and the two receive queues hold at most 8 records, and a lost count at most 255. -/
structure State.QueuesOk (s : State) : Prop where
  events : s.membership.events.length ≤ 8
  queueA : s.receiver.queueA.records.length ≤ 8
  queueB : s.receiver.queueB.records.length ≤ 8
  lostA : s.receiver.queueA.lost ≤ 255
  lostB : s.receiver.queueB.lost ≤ 255

/-- Whether a transmit entry is WAITING, CONTENDING or WON (R125). -/
def entryPosted : Option TransmitEntry → Bool
  | some e => e.state == .waiting || e.state == .contending || e.state == .won
  | none => false

/-- Whether a transmit entry is DONE (R131). -/
def entryDone : Option TransmitEntry → Bool
  | some e =>
    match e.state with
    | .done _ => true
    | .waiting => false
    | .contending => false
    | .won => false
  | none => false

/-- R124, R125, R129 to R131: the posting order holds the WAITING, CONTENDING and WON entries, the report order the DONE entries,
each once; data and void counts stay in range; no WAITING entry has a cancel requested. -/
structure State.TransmitOk (s : State) : Prop where
  posting : ∀ h : Handle, h ∈ s.sender.posting ↔ entryPosted s.sender.entries[h] = true
  reports : ∀ h : Handle, h ∈ s.sender.reports ↔ entryDone s.sender.entries[h] = true
  postingOnce : s.sender.posting.Nodup
  reportsOnce : s.sender.reports.Nodup
  lengths : ∀ (h : Handle) (e : TransmitEntry), s.sender.entries[h] = some e → e.data.length ≤ 8
  voids : ∀ (h : Handle) (e : TransmitEntry), s.sender.entries[h] = some e →
    e.voidCount ≤ 8 ∧ (entryPosted (some e) = true → e.voidCount ≤ 7)
  uncancelled : ∀ (h : Handle) (e : TransmitEntry), s.sender.entries[h] = some e → e.state = .waiting →
    e.cancelRequested = false

/-- R77, R170: the intervals and counts of the configuration that start at 1 are not 0. -/
structure State.ConfigOk (s : State) : Prop where
  keepalive : s.config.station.keepalive ≠ 0
  holdLimit : s.config.station.holdLimit ≠ 0
  pulseFrames : ∀ i : SourceNo, s.config.sources[i].pulseFrames ≠ 0

/-- R78: a source's running state is in the range its discipline gives: IDLE has no further edge and no count, a source without a
line and a FOLLOW source are IDLE, an UNTIL_SERVED source has no count, and a HOLDING PULSE source a count of 1 to 15. -/
structure SourceRun.InRange (r : SourceRun) (c : SourceConfig) : Prop where
  idle : r.holding = false → r.again = false ∧ r.pulseCount = 0
  latched : r.holding = true → c.line ≠ none ∧ c.discipline ≠ .follow
  untilServed : c.discipline = .untilServed → r.pulseCount = 0
  pulse : c.discipline = .pulse → r.holding = true → 1 ≤ r.pulseCount ∧ r.pulseCount ≤ 15

/-- R78, R90: every source is in its range, and off the line every source is IDLE, drove nothing and has no soft level. -/
structure State.SourcesOk (s : State) : Prop where
  inRange : ∀ i : SourceNo, s.sources[i].InRange s.config.sources[i]
  offline : s.membership.link.lineIdle = true → ∀ i : SourceNo,
    s.sources[i].holding = false ∧ s.sources[i].drove = false ∧ s.sources[i].softActive = false

/-- R22, R23, R36, R37: at most 4 rounds and no more winners than rounds; no round before the first enter beat, at most 3 before an
enter beat, and no winner yet of the round in progress; the word holds at most 22 beats and the body at most 84, fewer while they
are read. -/
structure Contention.InRange (c : Contention) (phase : Phase) : Prop where
  rounds : c.round ≤ 4
  winners : c.winners.length ≤ c.round
  slots : phase = .slots → c.round = 0
  enter : phase = .enter → c.round ≤ 3
  inRound : phase = .word ∨ phase = .body ∨ phase = .roundEnd → c.winners.length < c.round
  word : c.word.length ≤ 22
  wordRead : phase = .word → c.word.length < 22 ∧ c.body = []
  body : c.body.length ≤ 84
  bodyRead : phase = .body → c.body.length < 84

/-- R22: the contention state is in range. -/
def State.ContentionOk (s : State) : Prop := s.contention.InRange s.line.phase

/-- R55, R60: the listening count is at most 2, and below 2 in LISTENING, since at 2 the station becomes PROVING. -/
def State.ListeningOk (s : State) : Prop :=
  s.membership.listeningCount ≤ 2 ∧ (s.membership.link = .listening → s.membership.listeningCount ≤ 1)

/-- R69: an absent count is at most 2, and 0 in an ABSENT entry. -/
def State.RosterOk (s : State) : Prop :=
  ∀ n : StationNo, s.membership.roster[n].absentCount ≤ 2 ∧
    (s.membership.roster[n].present = false → s.membership.roster[n].absentCount = 0)

/-- R105, R106, R110, R113, R114, R119, R155, R167: a record other than IDLE stands on a SERVE line and a mark-owed flag on a WATCH line;
a set serve flag and a serve entry that is not orphaned each stand for an OWNED record, and no line has both; a hold counter stands
below the hold limit; off the line there is no claim, no flag and no line entry that is not orphaned. -/
structure State.ClaimsOk (s : State) : Prop where
  served : ∀ k : LineNo, s.claims.records[k] ≠ .idle → s.config.lines[k].role = .serve
  watched : ∀ k : LineNo, s.claims.markOwed[k] = true → s.config.lines[k].role = .watch
  watchEntry : ∀ e ∈ s.dispatch.inService, e.kind = .lineWatch → e.orphaned = false →
    ∃ k : LineNo, e.source = lineDelivery k ∧ s.config.lines[k].role = .watch
  serveEntry : ∀ e ∈ s.dispatch.inService, e.kind = .lineServe → e.orphaned = false →
    ∃ k : LineNo, ∃ n : Nat, e.source = lineDelivery k ∧ s.claims.records[k] = .owned n
  serveFlag : ∀ k : LineNo, s.dispatch.serveFlags[k] = true →
    (∃ n : Nat, s.claims.records[k] = .owned n) ∧ ∀ e ∈ s.dispatch.inService, e.source ≠ lineDelivery k
  bidding : ∀ k : LineNo, s.claims.records[k] = .contending ∨ s.claims.records[k] = .won →
    ∀ e ∈ s.dispatch.inService, e.source ≠ lineDelivery k
  sources : (s.dispatch.inService.map (·.source)).Nodup
  offline : s.membership.link.lineIdle = true → ∀ k : LineNo,
    s.claims.records[k] = .idle ∧ s.claims.markOwed[k] = false ∧ s.dispatch.serveFlags[k] = false ∧
      s.dispatch.edgeFlags[k] = false
  counter : ∀ (k : LineNo) (n : Nat), s.claims.records[k] = .owned n → n < s.holdLimit
  offlineEntries : s.membership.link.lineIdle = true → ∀ e ∈ s.dispatch.inService, e.kind.ofLine = true →
    e.orphaned = true

/-- R92: no record shows rose and fell both, and a held line has an owner or UNKNOWN. -/
def State.ImageOk (s : State) : Prop :=
  ∀ k : LineNo, ¬ (s.image.lines[k].rose = true ∧ s.image.lines[k].fell = true) ∧
    (s.image.lines[k].held = true → s.image.lines[k].owner ≠ .nobody)

/-- R174, R176, R181: before a command is taken at most 103 bits are read and nothing is due on LPO; after it the falling edges are
counted to one past the last bit of an answer that has a status byte; RESET is taken in an open transaction only. -/
structure State.PortOk (s : State) : Prop where
  nothingDue : s.port.phase ≠ .answering → s.port.response = [] ∧ s.port.edges = 0 ∧ s.port.resetTaken = false
  bits : ∀ bits, s.port.phase = .reading bits → bits.length ≤ 103
  answer : s.port.phase = .answering → s.port.response ≠ [] ∧ s.port.edges ≤ 8 * s.port.response.length + 1

/-- R158: ATTN is pulled low exactly while a source is presentable and attention is on. -/
def State.AttnOk (s : State) : Prop := s.dispatch.attnLow = s.attentionDue

/-- A safe state. -/
structure State.Safe (s : State) : Prop where
  config : s.ConfigOk
  tally : s.TallyOk
  line : s.LineOk
  service : s.ServiceOk
  queues : s.QueuesOk
  transmit : s.TransmitOk
  image : s.ImageOk
  roster : s.RosterOk
  listening : s.ListeningOk
  sources : s.SourcesOk
  contention : s.ContentionOk
  port : s.PortOk
  claims : s.ClaimsOk
  attn : s.AttnOk

end Sys2Proof.Machine
end

