-- ==== Sys2Proof/Certificates/Slice0/Obligations.lean ====
section
/-! DEFINITION. The statements for the provers. A state `settle s u` is `u` with ATTN and the withdrawn flag as R158 and R159
set them after a step from `s`; two statements below say what that makes of the two. Throughout, and by the model's choice, a
timer is stopped, running or at its limit (assumption 4), a port command is one step, the one in which its last byte is read
(assumption 14), and an event that cannot occur in the present state changes nothing (assumption 8, with the marks of
assumption 26 apart). An item that has won, lost or been handed back is no longer the offered item (assumption 28), and the
station's own pull on SLB stands from BEAT_START to the end of the beat (assumption 30). -/

namespace Sys2Proof

/-- Whether a command is a new transaction of the local port: it begins with a fall of LPS (R174). -/
def Instr.opensTransaction : Instr → Bool
  | .ident | .status | .configureStation .. | .configureLine .. | .configureSource .. | .configureFilter ..
  | .readConfiguration .. | .join | .leave | .reset | .take | .finishNewest | .finish _ | .mask _ | .unmask _
  | .assertSource _ | .releaseSource _ | .postNotice .. | .cancelNotice _ | .readTransmitList | .readImage ..
  | .readRoster | .readSources | .readQueues | .unknownCommand | .transactionCutShort .inCommandByte
  | .transactionCutShort .inArguments => true
  | .transactionCutShort .inResponse | .transactionCutShort .afterResponse | .resetAtLpsRise | .pinReset .. | .qualifiedLevelChange .. | .mediumQuiet
  | .keepaliveExpired | .guardPassed | .openFrame | .followOnStart | .startObserved | .enterBeat _
  | .roundEndedWithWinner | .frameEnd _ | .withdrawal | .provingEntry | .peerLost _ | .pulseExpiry _
  | .holdLimitAbandon _ | .noticeVoidedOut _ | .followOnBeat | .stopObserved | .frameBrokenByStart
  | .frameBrokenByStop | .lateMark _ | .mediumStuck | .beatStart | .beatEnd _ => false

end Sys2Proof

namespace Sys2Proof.Machine

open Sys2Proof

/-! ## Words the statements use -/

/-- The state with these bytes due on LPO, none of their bits given yet: the status byte and the response bytes (R174, R177). -/
def State.responding (s : State) (bytes : List Byte) : State := { s with port := ⟨.answering, bytes, 0, false⟩ }

/-- A byte of flags, the first in bit 0 (11.7). -/
def flagsByte (flags : List Bool) : Byte := BitVec.ofNat 8 (flags.foldr (fun b n => b.toNat + 2 * n) 0)

/-- A two-byte number, the more significant byte first (R174). -/
def wordBytes (w : Word16) : List Byte := [(w >>> 8).setWidth 8, w.setWidth 8]

/-- The codes of 11.7.4 for the fields of the configuration. -/
def ConfigurationCodes : Prop :=
  LineRole.unused.code = 0 ∧ LineRole.watch.code = 1 ∧ LineRole.serve.code = 2 ∧
  SourceDiscipline.follow.code = 0 ∧ SourceDiscipline.pulse.code = 1 ∧ SourceDiscipline.untilServed.code = 2 ∧
  Polarity.high.code = 0 ∧ Polarity.low.code = 1 ∧
  FilterAction.queueA.code = 0 ∧ FilterAction.queueB.code = 1 ∧ FilterAction.drop.code = 2

/-- The codes of 11.7.4 for link states and fault levels. -/
def StationCodes : Prop :=
  LinkState.detached.code = 0 ∧ LinkState.listening.code = 1 ∧ LinkState.proving.code = 2 ∧ LinkState.joined.code = 3 ∧
  LinkState.leaving.code = 4 ∧ LinkState.stalled.code = 5 ∧ LinkState.withdrawn.code = 6 ∧
  FaultLevel.clean.code = 0 ∧ FaultLevel.warned.code = 1 ∧ FaultLevel.muted.code = 2

/-- The codes of 11.7.4 for transmit states. -/
def EntryCodes : Prop :=
  entryStateCode none = 0 ∧ ∀ e : TransmitEntry,
    (e.state = .waiting → entryStateCode (some e) = 1) ∧ (e.state = .contending → entryStateCode (some e) = 2) ∧
    (e.state = .won → entryStateCode (some e) = 3) ∧ ∀ o, e.state = .done o → entryStateCode (some e) = 4

/-- The codes of 11.7.4 for deliveries: kinds, transmit outcomes, and the kinds and arguments of events (R73). -/
def DeliveryCodes : Prop :=
  DeliveryKind.lineWatch.code = 0 ∧ DeliveryKind.lineServe.code = 1 ∧ DeliveryKind.notice.code = 2 ∧
  DeliveryKind.transmit.code = 3 ∧ DeliveryKind.station.code = 4 ∧
  NoticeOutcome.sent.code = 0 ∧ NoticeOutcome.cancelled.code = 1 ∧ NoticeOutcome.voidedOut.code = 2 ∧
  (∀ n : StationNo, (StationEvent.peerJoined n).kindCode = 0 ∧ (StationEvent.peerJoined n).argument = BitVec.ofNat 8 n.val ∧
    (StationEvent.peerLost n).kindCode = 1 ∧ (StationEvent.peerLost n).argument = BitVec.ofNat 8 n.val) ∧
  (∀ l : FaultLevel, (StationEvent.levelChanged l).kindCode = 2 ∧ (StationEvent.levelChanged l).argument = l.code) ∧
  (∀ l : LinkState, (StationEvent.linkChanged l).kindCode = 3 ∧ (StationEvent.linkChanged l).argument = l.code) ∧
  (∀ r : JoinRefusal, (StationEvent.joinRefused r).kindCode = 4) ∧
  (StationEvent.joinRefused .numberTaken).argument = 1 ∧ (StationEvent.joinRefused .twin).argument = 2 ∧
  ∀ k : LineNo, (StationEvent.abandoned k).kindCode = 5 ∧ (StationEvent.abandoned k).argument = BitVec.ofNat 8 k.val

/-- A code of 11.7.4 for a number or NONE (ANY), 3Fh. -/
def codeOrNone {n : Nat} (k : Option (Fin n)) : Byte := (k.map fun k => BitVec.ofNat 8 k.val).getD 0x3F

/-- The image record of line `n` (11.7.9). -/
def State.imageRecord (s : State) (n : Nat) : List Byte :=
  if h : n < 48 then
    let r := s.image.lines[n]
    let owner : Byte := match r.owner with
      | .station k => BitVec.ofNat 8 k.val
      | .unknown => 0x3E
      | .nobody => 0x3F
    [BitVec.ofNat 8 n, flagsByte [r.asserted, r.held, r.marked, r.rose, r.fell], owner] ++ wordBytes r.lastChange
  else []

/-- Events recorded one after the other with one frame number (R74, R47). -/
def recordedAfter (queue : List EventRecord) (frame : Word16) (es : List StationEvent) : List EventRecord :=
  es.foldl (fun q e => appendEvent q ⟨e, frame, false⟩) queue

/-- Whether an event is the claim unit's (R73). -/
def StationEvent.ofClaimUnit : StationEvent → Bool
  | .abandoned _ => true
  | .peerJoined _ | .peerLost _ | .levelChanged _ | .linkChanged _ | .joinRefused _ => false

/-- R76: `after` is the queue `before` with the membership unit's events and the claim unit's events recorded, each unit's in
the order given and either unit's first. -/
def RecordsGroups (before after : List EventRecord) (frame : Word16) (member claim : List StationEvent) : Prop :=
  ∃ es : List StationEvent, after = recordedAfter before frame es ∧
    es.filter (!·.ofClaimUnit) = member ∧ es.filter (·.ofClaimUnit) = claim

/-- The lines whose claim is OWNED or RELEASING, as ABANDONED events in order of line number (R119, R120). -/
def State.abandonments (s : State) : List StationEvent :=
  ((List.finRange 48).filter fun k => match s.claims.records[k] with
    | .owned _ | .releasing => true
    | .idle | .contending | .won => false).map .abandoned

/-- R167: the in-service list with every line entry orphaned. -/
def orphanLines (l : List ServiceEntry) : List ServiceEntry :=
  l.map fun e => if e.kind = .lineWatch ∨ e.kind = .lineServe then { e with orphaned := true } else e

/-- R38: the item offered in the round in progress is this entry of the transmit list, and it is CONTENDING. -/
def State.offersNotice (s : State) (h : Handle) : Bool :=
  s.contention.offered == some (.notice h) && s.sender.entries[h].any fun e => e.state == .contending

/-- R84: what an active edge that is taken makes of a source's running state `r`: nothing for a FOLLOW source or one whose line
is NONE; HOLDING for an IDLE source, a PULSE source with its pulse count loaded; again for a HOLDING source. -/
def EdgeTaken (c : SourceConfig) (r r' : SourceRun) : Prop :=
  (c.line = none ∨ c.discipline = .follow → r' = r) ∧
  (c.line ≠ none → c.discipline = .pulse → r.holding = false →
    r' = { r with holding := true, pulseCount := c.pulseFrames.toNat }) ∧
  (c.line ≠ none → c.discipline = .untilServed → r.holding = false → r' = { r with holding := true }) ∧
  (c.line ≠ none → c.discipline ≠ .follow → r.holding = true → r' = { r with again := true })

/-- R84: the link states in which an active edge is taken. -/
def LinkState.onLine (l : LinkState) : Prop := l ≠ .detached ∧ l ≠ .withdrawn

/-- R5, R22, R38, R40, R85: `t` is the participant of a new frame that `s` becomes at a start mark: the plan latched, the beat count
and the samples cleared (assumption 27), the contention state emptied (assumptions 16 and 21), the error marks cleared and the verdict drive recessive
(assumption 19), the guard stopped, each drove flag set by its source's contribution. `own` says whether the station makes the mark itself and so pulls SLD low (R13). -/
def State.inNewFrame (s : State) (own : Bool) : State :=
  { s with
    line := { s.line with
      medium := .inFrame, phase := .slots, beatCount := 0, plan := s.planNow
      samples := ⟨Table.of fun _ => .recessive, Table.of fun _ => .recessive, Table.of fun _ => .recessive,
        Table.of fun _ => .recessive⟩
      followOn := false, guardTimer := .stopped, quietTimer := .stopped
      sld := if own then .dominant else .recessive, slb := .recessive }
    contention := ⟨0, .receiver, none, [], [], 0xFFFF, false, false, false, []⟩
    errors := ⟨false, false, false, .recessive⟩
    sources := Table.of fun i => { s.sources[i] with drove := s.contributes i } }

end Sys2Proof.Machine

open Sys2Proof Sys2Proof.Machine

/-! ## The step -/

/-- A step runs the command at the front of the queue on the state with the queue's rest. -/
def Obligations.StepRunsFrontCommand : Prop :=
  ∀ (c : Instr) (cs : List Instr) (s : State),
    step { s with pending := c :: cs } = exec c { s with pending := cs }

/-- The model's choice (assumptions 3 and 14): a step on an empty queue is one period of the reference clock, which advances the
HELLO key generator by one, and one at the local port: with LPS high it may fall, which begins a transaction; before the command is
taken one bit is read from LPI, up to the 103 that come before the last bit of the longest command; in an answer LPO goes on to
the next bit; and a port that waits for LPS to rise after a pin reset stays so. Whether LPS falls and what is read are free values. Nothing else changes. -/
def Obligations.EmptyQueueStepAdvancesKeyGenerator : Prop :=
  ∀ s : State, s.pending = [] →
    step s = .next { s with
      membership := { s.membership with keyGenerator := s.membership.keyGenerator + 1 }
      freeIndex := if s.port.phase = .answering ∨ s.port.phase = .waiting then s.freeIndex else s.freeIndex + 1
      port :=
        match s.port.phase with
        | .waiting => s.port
        | .closed => { s.port with phase := if Config.lpsFalls s.freeIndex = true then .reading [] else .closed }
        | .reading bits =>
          { s.port with phase := .reading (if bits.length < 103 then bits ++ [Config.lpiBit s.freeIndex] else bits) }
        | .answering =>
          { s.port with edges :=
            if s.port.edges ≤ 8 * s.port.response.length then s.port.edges + 1 else s.port.edges } }

/-- Every command answers a next state in every state, and leaves the commands that wait behind it. -/
def Obligations.EveryCommandCompletesAndKeepsQueue : Prop :=
  ∀ (c : Instr) (s : State), ∃ t, exec c s = .next t ∧ t.pending = s.pending

/-! ## The local port (chapter 11) -/

/-- R178: IDENT answers OK with part number 4832 (12E0h), revision 1, 48 lines and 32 station numbers, in every state, and
changes nothing. -/
def Obligations.IdentReturnsFixedIdentity : Prop :=
  ∀ s : State, s.port.resetTaken = false → s.AttnOk →
    exec .ident s = .next (s.responding [0x00, 0x12, 0xE0, 1, 48, 32])

/-- R179: STATUS answers OK with the fifteen bytes of 11.7.7 as the state stands, with the codes of 11.7.4 as written, and changes nothing. -/
def Obligations.StatusReportsPresentState : Prop :=
  StationCodes ∧ EntryCodes ∧ ∀ s : State, s.port.resetTaken = false → s.AttnOk →
    exec .status s = .next (s.responding (
      [0x00, s.membership.link.code, s.membership.level.code, BitVec.ofNat 8 s.membership.tally,
        BitVec.ofNat 8 s.straps.stationNumber.val, s.straps.beatRate.setWidth 8] ++ wordBytes s.image.frameNumber ++
      [BitVec.ofNat 8 s.dispatch.inService.length, BitVec.ofNat 8 ((List.finRange 52).countP s.presentable),
        BitVec.ofNat 8 s.receiver.queueA.records.length, BitVec.ofNat 8 s.receiver.queueB.records.length,
        entryStateCode s.sender.entries[0] * 16 + entryStateCode s.sender.entries[1],
        entryStateCode s.sender.entries[2] * 16 + entryStateCode s.sender.entries[3],
        flagsByte [s.membership.events.any (·.laterLost), s.config.complete],
        match s.membership.lastRefusal with
        | none => 0
        | some .numberTaken => 1
        | some .twin => 2]))

/-- R102: READ IMAGE answers BAD_ARG for a range outside the 48 lines, otherwise OK with the accepted-frame number and the records
of the range in order, and changes nothing. -/
def Obligations.ReadImageReturnsRange : Prop :=
  ∀ (first count : Byte) (s : State), s.port.resetTaken = false → s.AttnOk →
    exec (.readImage first count) s = .next (s.responding (
      if 47 < first.toNat ∨ count.toNat = 0 ∨ 48 < count.toNat ∨ 48 < first.toNat + count.toNat then [0x04]
      else 0x00 :: wordBytes s.image.frameNumber ++
        (List.range count.toNat).flatMap fun i => s.imageRecord (first.toNat + i)))

/-- READ ROSTER, READ SOURCES and READ TRANSMIT LIST answer OK with their records in order (R180, R91, R136; layouts of 11.7.9) and
change nothing; READ QUEUES (R147) answers the two fills and lost counts as they stand and then sets the lost counts to 0. The codes
are those of 11.7.4 as written. -/
def Obligations.ReadListsReturnTheirRecords : Prop :=
  ConfigurationCodes ∧ EntryCodes ∧ ∀ s : State, s.port.resetTaken = false → s.AttnOk →
    exec .readRoster s = .next (s.responding (0x00 :: (List.finRange 32).map fun n =>
      BitVec.ofNat 8 (s.membership.roster[n].present.toNat + 2 * s.membership.roster[n].absentCount))) ∧
    exec .readSources s = .next (s.responding (0x00 :: (List.finRange 16).flatMap fun i =>
      let c := s.config.sources[i]
      let r := s.sources[i]
      let active := if i.val < 12 then
          match r.filtered, c.polarity with
          | some .high, .high => true
          | some .low, .low => true
          | _, _ => false
        else r.softActive
      [codeOrNone c.line, c.discipline.code, flagsByte [r.holding, r.again, r.drove, active],
        BitVec.ofNat 8 r.pulseCount])) ∧
    exec .readTransmitList s = .next (s.responding (0x00 :: (List.finRange 4).flatMap fun h =>
      match s.sender.entries[h] with
      | none => [0, 0, 0, 0, 0, 0, 0, 0, 0]
      | some e =>
        [entryStateCode (some e)] ++ wordBytes (e.tag.setWidth 16) ++
        [e.urgency.setWidth 8, BitVec.ofNat 8 e.data.length, BitVec.ofNat 8 e.voidCount, flagsByte [e.cancelRequested],
          (match e.state with
            | .done .sent => 0
            | .done .cancelled => 1
            | .done .voidedOut => 2
            | .waiting | .contending | .won => 0),
          if h ∈ s.sender.reports then BitVec.ofNat 8 (s.sender.reports.idxOf h + 1) else 0])) ∧
    exec .readQueues s = .next ({ s with receiver := {
        queueA := { s.receiver.queueA with lost := 0 }
        queueB := { s.receiver.queueB with lost := 0 } } }.responding
      [0x00, BitVec.ofNat 8 s.receiver.queueA.records.length, BitVec.ofNat 8 s.receiver.queueA.lost,
        BitVec.ofNat 8 s.receiver.queueB.records.length, BitVec.ofNat 8 s.receiver.queueB.lost])

/-- R173: READ CONFIGURATION answers OK with the configuration-complete flag and the entry in the layout of 11.7.6, or BAD_ARG for an
unassigned section or an index out of range, and changes nothing. The codes are those of 11.7.4 as written. -/
def Obligations.ReadConfigurationReturnsEntry : Prop :=
  ConfigurationCodes ∧ ∀ s : State, s.port.resetTaken = false → s.AttnOk →
    (let c := s.config.station
     exec (.readConfiguration 0 0) s = .next (s.responding [0x00, flagsByte [s.config.complete], c.keepalive, c.holdLimit,
       flagsByte [c.discipline == .flat, c.rotate, c.hearOwn, c.reportPeers, c.attention],
       c.rankA.setWidth 8, c.rankB.setWidth 8, c.rankTransmit.setWidth 8, c.rankStation.setWidth 8,
       flagsByte [c.policyA == .keepNew, c.policyB == .keepNew], c.defaultAction.code])) ∧
    (∀ k : LineNo, let c := s.config.lines[k]
     exec (.readConfiguration 1 (BitVec.ofNat 8 k.val)) s = .next (s.responding [0x00, flagsByte [s.config.complete],
       BitVec.ofNat 8 k.val, c.role.code, flagsByte [c.trigger == .level, c.acknowledge], c.rank.setWidth 8,
       c.urgency.setWidth 8])) ∧
    (∀ i : SourceNo, let c := s.config.sources[i]
     exec (.readConfiguration 2 (BitVec.ofNat 8 i.val)) s = .next (s.responding [0x00, flagsByte [s.config.complete],
       BitVec.ofNat 8 i.val, codeOrNone c.line, c.discipline.code, c.pulseFrames.setWidth 8, c.polarity.code])) ∧
    (∀ i : FilterNo, let c := s.config.filters[i]
     exec (.readConfiguration 3 (BitVec.ofNat 8 i.val)) s = .next (s.responding ([0x00, flagsByte [s.config.complete],
       BitVec.ofNat 8 i.val, flagsByte [c.enabled, c.form == .pattern]] ++ wordBytes (c.first.setWidth 16) ++
       wordBytes (c.second.setWidth 16) ++ [codeOrNone c.sender, c.action.code]))) ∧
    (∀ sect index : Byte,
     3 < sect.toNat ∨ sect = 0 ∧ index ≠ 0 ∨ sect = 1 ∧ 47 < index.toNat ∨
       (sect = 2 ∨ sect = 3) ∧ 15 < index.toNat →
     exec (.readConfiguration sect index) s = .next (s.responding [0x04]))

/-- R176: a command byte that names no command is answered UNKNOWN_COMMAND and changes nothing; a transaction cut before its command is taken
drops the bits read and changes nothing else; one that ends in its response loses the bytes not yet read and nothing else, and one that ends after it nothing;
and these rises of LPS leave the port ready for the next fall, after a pin reset too (R182).
R174: LPO is released while LPS is high, is low while the command and argument bytes are read and while the port waits for LPS to
rise after a pin reset (R182), until the first falling edge of LPC
after the command is taken and again after the last bit, and between carries the answer's bytes, each with its most significant bit first. And the model's reading of R174 and R181
(assumption 13): a transaction that begins while a RESET still waits for the rise of LPS finds that rise done, so it runs on the
reset station. -/
def Obligations.FailedTransactionsAndTakenReset : Prop :=
  (∀ s : State, s.port.resetTaken = false → s.AttnOk →
    exec .unknownCommand s = .next (s.responding [0x09]) ∧
    ∀ cut : CutPoint, exec (.transactionCutShort cut) s = .next { s with port := ⟨.closed, [], 0, false⟩ }) ∧
  (∀ p : LocalPort,
    (p.phase = .closed → p.lpo = .released) ∧
    (p.phase = .waiting → p.lpo = .low) ∧
    (∀ bits, p.phase = .reading bits → p.lpo = .low) ∧
    (p.phase = .answering → p.edges = 0 ∨ 8 * p.response.length < p.edges → p.lpo = .low) ∧
    ∀ (before after : List Byte) (b : Byte) (i : Nat), p.phase = .answering → p.response = before ++ b :: after → i < 8 →
      p.edges = 8 * before.length + i + 1 → p.lpo = if b.getMsbD i then .high else .low) ∧
  ∀ (c : Instr) (s : State), c.opensTransaction = true → s.port.resetTaken = true → exec c s = exec c s.resetBlocks

/-- R181, R182, R2, R60: RESET is answered OK and changes nothing until the rise of LPS; then every block takes its reset value but the
straps and the key generator. A pin reset latches the straps and also sets the key generator to 0, and with LPS low at its end the
port waits for LPS to rise and fall again; the rise of a RESET overtaken by it starts no second reset. That a pin reset is one step and that the level of LPS at its end is a free value are
assumption 15, and the values no chapter gives after reset are assumption 16's. -/
def Obligations.ResetsReturnBlocksToResetValues : Prop :=
  (∀ s : State, s.port.resetTaken = false → s.AttnOk →
    exec .reset s = .next { s with port := ⟨.answering, [0x00], 0, true⟩ } ∧ exec .resetAtLpsRise s = .next
      (if s.port.phase = .waiting then { s with port := ⟨.closed, [], 0, false⟩ } else s)) ∧
  (∀ s : State, s.port.resetTaken = true →
    exec .resetAtLpsRise s = .next { State.reset with
      straps := s.straps
      membership := { State.reset.membership with keyGenerator := s.membership.keyGenerator }
      freeIndex := s.freeIndex, pending := s.pending } ∧
    exec (.transactionCutShort .inResponse) s = exec .resetAtLpsRise s ∧
    exec (.transactionCutShort .afterResponse) s = exec .resetAtLpsRise s) ∧
  ∀ (n : StationNo) (r : BitVec 2) (s : State),
    exec (.pinReset n r) s = .next { State.reset with
      straps := ⟨n, r⟩
      port := if Config.lpsLowAtReset s.freeIndex = true then ⟨.waiting, [], 0, false⟩ else ⟨.closed, [], 0, false⟩
      freeIndex := s.freeIndex + 1, pending := s.pending } ∧
    State.reset.membership.keyGenerator = 0

/-- The reset state holds what the data book gives for after reset, block by block (R3, R10, R22, R40, R48, R49, R55, R69, R78, R92, R93,
R104, R105, R124, R137, R142, R151, R157, R158, R159, R160, R161, R169, R170, R182), and is safe.
That LPS is
high, so that the local port is closed, is not the data book's but the model's choice (assumption 1). -/
def Obligations.ResetStateHoldsResetValues : Prop :=
  let s := State.reset
  (s.line.medium = .unsynced ∧ s.line.sld = .recessive ∧ s.line.slb = .recessive ∧ s.line.lastAcceptedPlan.roster = .recessive ∧
    ∀ k : LineNo, s.line.lastAcceptedPlan.line[k] = .recessive ∧ s.line.lastAcceptedPlan.held[k] = .recessive ∧
      s.line.lastAcceptedPlan.mark[k] = .recessive) ∧
  (s.contention.round = 0 ∧ s.contention.offered = none ∧ s.contention.winners = [] ∧ s.errors.driveFault = false ∧
    s.errors.checkFault = false ∧ s.errors.formFault = false) ∧
  (s.membership.link = .detached ∧ s.membership.tally = 0 ∧ s.membership.level = .clean ∧ s.membership.listeningCount = 0 ∧
    s.membership.helloKey = none ∧ s.membership.remembered = none ∧ s.membership.lastRefusal = none ∧
    s.membership.rosterBaseline = true ∧ s.membership.events = [] ∧ ∀ n : StationNo, s.membership.roster[n] = ⟨false, 0⟩) ∧
  (∀ i : SourceNo, s.sources[i] = ⟨false, false, 0, false, false, none⟩ ∧ s.config.sources[i] = ⟨none, .follow, 1, .high⟩) ∧
  (s.image.frameNumber = 0 ∧ s.image.baseline = true ∧
    ∀ k : LineNo, s.image.lines[k] = ⟨false, false, false, .nobody, false, false, 0⟩ ∧
      s.config.lines[k] = ⟨.unused, .edge, false, 15, 15⟩ ∧ s.claims.records[k] = .idle ∧ s.claims.markOwed[k] = false ∧
      s.dispatch.edgeFlags[k] = false ∧ s.dispatch.serveFlags[k] = false) ∧
  ((∀ h : Handle, s.sender.entries[h] = none) ∧ s.sender.posting = [] ∧ s.sender.reports = [] ∧
    s.receiver.queueA = ⟨[], 0, false⟩ ∧ s.receiver.queueB = ⟨[], 0, false⟩ ∧
    ∀ i : FilterNo, s.config.filters[i] = ⟨false, .range, 0, 2047, none, .drop⟩) ∧
  (s.dispatch.inService = [] ∧ s.dispatch.tokenCounter = 1 ∧ s.dispatch.withdrawn = false ∧ s.dispatch.attnLow = false ∧
    (∀ d : DeliveryNo, s.dispatch.masks[d] = false) ∧ ∀ r : Fin 16, s.dispatch.pointers[r] = none) ∧
  s.port = ⟨.closed, [], 0, false⟩ ∧
  (s.config.complete = false ∧ s.config.station = ⟨10, 32, .nested, false, false, true, true, 15, 15, 15, 15, .keepOld, .keepOld,
    .drop⟩) ∧
  s.Safe

/-! ## The configuration record (chapter 11) -/

/-- R169, R170: CONFIGURE STATION replaces the STATION section as a whole by its nine bytes in the layout of 11.7.6 and sets the
configuration-complete flag; it answers BAD_ARG for any byte out of range and REFUSED outside DETACHED, with nothing changed. The
codes are those of 11.7.4 as written. -/
def Obligations.ConfigureStationWritesSection : Prop :=
  ConfigurationCodes ∧ ∀ s : State, s.port.resetTaken = false →
    (∀ c : StationSection, c.keepalive ≠ 0 → c.holdLimit ≠ 0 → s.membership.link = .detached →
      exec (.configureStation c.keepalive c.holdLimit
          (flagsByte [c.discipline == .flat, c.rotate, c.hearOwn, c.reportPeers, c.attention])
          (c.rankA.setWidth 8) (c.rankB.setWidth 8) (c.rankTransmit.setWidth 8) (c.rankStation.setWidth 8)
          (flagsByte [c.policyA == .keepNew, c.policyB == .keepNew]) c.defaultAction.code) s =
        .next (settle s ({ s with config := { s.config with station := c, complete := true } }.responding [0x00]))) ∧
    ∀ keepalive holdLimit options rankA rankB rankTransmit rankStation policies defaultAction : Byte,
      (s.membership.link = .detached →
        keepalive = 0 ∨ holdLimit = 0 ∨ 31 < options.toNat ∨ 15 < rankA.toNat ∨ 15 < rankB.toNat ∨
          15 < rankTransmit.toNat ∨ 15 < rankStation.toNat ∨ 3 < policies.toNat ∨ 2 < defaultAction.toNat →
        exec (.configureStation keepalive holdLimit options rankA rankB rankTransmit rankStation policies defaultAction) s =
          .next (settle s (s.responding [0x04]))) ∧
      (s.membership.link ≠ .detached →
        exec (.configureStation keepalive holdLimit options rankA rankB rankTransmit rankStation policies defaultAction) s =
          .next (settle s (s.responding [0x03])))

/-- R169, R171, R104: CONFIGURE LINE replaces the subscription of the line named; BAD_ARG for any byte out of range, REFUSED outside
DETACHED, with nothing changed. The codes are those of 11.7.4 as written. -/
def Obligations.ConfigureLineWritesSubscription : Prop :=
  ConfigurationCodes ∧ ∀ s : State, s.port.resetTaken = false →
    (∀ (k : LineNo) (c : Subscription), s.membership.link = .detached →
      exec (.configureLine (BitVec.ofNat 8 k.val) c.role.code (flagsByte [c.trigger == .level, c.acknowledge])
          (c.rank.setWidth 8) (c.urgency.setWidth 8)) s =
        .next (settle s ({ s with config := { s.config with lines := s.config.lines.put k c } }.responding [0x00]))) ∧
    ∀ line role options rank urgency : Byte,
      (s.membership.link = .detached →
        47 < line.toNat ∨ 2 < role.toNat ∨ 3 < options.toNat ∨ 15 < rank.toNat ∨ 15 < urgency.toNat →
        exec (.configureLine line role options rank urgency) s = .next (settle s (s.responding [0x04]))) ∧
      (s.membership.link ≠ .detached →
        exec (.configureLine line role options rank urgency) s = .next (settle s (s.responding [0x03])))

/-- R169, R171, R77: CONFIGURE SOURCE replaces the configured fields of the source named, whose running state stays; BAD_ARG for any byte
out of range, REFUSED outside DETACHED, with nothing changed. The codes are those of 11.7.4 as written. -/
def Obligations.ConfigureSourceWritesFields : Prop :=
  ConfigurationCodes ∧ ∀ s : State, s.port.resetTaken = false →
    (∀ (i : SourceNo) (c : SourceConfig), c.pulseFrames ≠ 0 → s.membership.link = .detached →
      exec (.configureSource (BitVec.ofNat 8 i.val) (codeOrNone c.line) c.discipline.code (c.pulseFrames.setWidth 8)
          c.polarity.code) s =
        .next (settle s ({ s with config := { s.config with sources := s.config.sources.put i c } }.responding [0x00]))) ∧
    ∀ index line discipline pulseFrames polarity : Byte,
      (s.membership.link = .detached →
        15 < index.toNat ∨ 47 < line.toNat ∧ line ≠ 0x3F ∨ 2 < discipline.toNat ∨ pulseFrames = 0 ∨ 15 < pulseFrames.toNat ∨
          1 < polarity.toNat →
        exec (.configureSource index line discipline pulseFrames polarity) s = .next (settle s (s.responding [0x04]))) ∧
      (s.membership.link ≠ .detached →
        exec (.configureSource index line discipline pulseFrames polarity) s = .next (settle s (s.responding [0x03])))

/-- R169, R171, R137: CONFIGURE FILTER replaces the filter entry named; BAD_ARG for any byte out of range or a RANGE whose low tag is above
its high tag, REFUSED outside DETACHED, with nothing changed. The codes are those of 11.7.4 as written. -/
def Obligations.ConfigureFilterWritesEntry : Prop :=
  ConfigurationCodes ∧ ∀ s : State, s.port.resetTaken = false →
    (∀ (i : FilterNo) (c : FilterEntry), (c.form = .range → c.first ≤ c.second) → s.membership.link = .detached →
      exec (.configureFilter (BitVec.ofNat 8 i.val) (flagsByte [c.enabled, c.form == .pattern]) (c.first.setWidth 16)
          (c.second.setWidth 16) (codeOrNone c.sender) c.action.code) s =
        .next (settle s ({ s with config := { s.config with filters := s.config.filters.put i c } }.responding [0x00]))) ∧
    ∀ (index options : Byte) (first second : Word16) (sender action : Byte),
      (s.membership.link = .detached →
        15 < index.toNat ∨ 3 < options.toNat ∨ 2047 < first.toNat ∨ 2047 < second.toNat ∨
          31 < sender.toNat ∧ sender ≠ 0x3F ∨ 2 < action.toNat ∨ options.toNat < 2 ∧ second < first →
        exec (.configureFilter index options first second sender action) s = .next (settle s (s.responding [0x04]))) ∧
      (s.membership.link ≠ .detached →
        exec (.configureFilter index options first second sender action) s = .next (settle s (s.responding [0x03])))

/-- R173: what a CONFIGURE command answered OK has written, READ CONFIGURATION gives back byte for byte in the layout of the command. -/
def Obligations.ConfigureThenReadGivesTheBytesBack : Prop :=
  ∀ s t : State, s.port.resetTaken = false → s.membership.link = .detached → t.port.response = [0x00] →
    (∀ keepalive holdLimit options rankA rankB rankTransmit rankStation policies defaultAction : Byte,
      exec (.configureStation keepalive holdLimit options rankA rankB rankTransmit rankStation policies defaultAction) s =
        .next t →
      ∃ u, exec (.readConfiguration 0 0) t = .next u ∧ u.port.response =
        [0x00, 1, keepalive, holdLimit, options, rankA, rankB, rankTransmit, rankStation, policies, defaultAction]) ∧
    (∀ line role options rank urgency : Byte, exec (.configureLine line role options rank urgency) s = .next t →
      ∃ u, exec (.readConfiguration 1 line) t = .next u ∧
        u.port.response = [0x00, flagsByte [s.config.complete], line, role, options, rank, urgency]) ∧
    (∀ index line discipline pulseFrames polarity : Byte,
      exec (.configureSource index line discipline pulseFrames polarity) s = .next t →
      ∃ u, exec (.readConfiguration 2 index) t = .next u ∧
        u.port.response = [0x00, flagsByte [s.config.complete], index, line, discipline, pulseFrames, polarity]) ∧
    ∀ (index options : Byte) (first second : Word16) (sender action : Byte),
      exec (.configureFilter index options first second sender action) s = .next t →
      ∃ u, exec (.readConfiguration 3 index) t = .next u ∧
        u.port.response = [0x00, flagsByte [s.config.complete], index, options] ++ wordBytes first ++ wordBytes second ++
          [sender, action]

/-- R169, R77, R104, R137: outside DETACHED no command but a reset changes the configuration record or its flag. -/
def Obligations.ConfigurationIsFrozenOutsideDetached : Prop :=
  ∀ (c : Instr) (s : State), s.port.resetTaken = false → s.membership.link ≠ .detached →
    (∀ n r, c ≠ .pinReset n r) → ∃ t, exec c s = .next t ∧ t.config = s.config

/-! ## Membership (chapters 3 and 4) -/

/-- R57, R48, R51, R47, R10, R69, R101, R3: JOIN is REFUSED outside DETACHED and INCOMPLETE while the configuration is not complete, with
nothing changed; otherwise it makes the station LISTENING in UNSYNCED with tally, number, roster, image and last accepted plan
emptied, and records LEVEL CLEAN if the level was not CLEAN, then LINK LISTENING, both with frame number 0. The keepalive timer
runs from JOIN by the model's choice (assumption 4). -/
def Obligations.JoinStartsListening : Prop :=
  ∀ s : State, s.port.resetTaken = false →
    (s.membership.link ≠ .detached → exec .join s = .next (settle s (s.responding [0x03]))) ∧
    (s.membership.link = .detached → s.config.complete = false → exec .join s = .next (settle s (s.responding [0x08]))) ∧
    (s.membership.link = .detached → s.config.complete = true →
      exec .join s = .next (settle s ({ s with
        membership := { s.membership with
          link := .listening, tally := 0, level := .clean, listeningCount := 0, helloKey := none, remembered := none
          roster := Table.of fun _ => ⟨false, 0⟩, rosterBaseline := true
          events := recordedAfter s.membership.events 0
            ((if s.membership.level = FaultLevel.clean then [] else [StationEvent.levelChanged .clean]) ++
              [StationEvent.linkChanged .listening]) }
        image := ⟨Table.of fun _ => ⟨false, false, false, .nobody, false, false, 0⟩, 0, true⟩
        line := { s.line with
          medium := .unsynced, phase := .noFrame, lastAcceptedPlan := .silent, followOn := false
          sld := .recessive, slb := .recessive
          quietTimer := .running, guardTimer := .stopped, keepaliveTimer := .running, stuckTimer := .running }
        }.responding [0x00])))

/-- R63: LEAVE is REFUSED in DETACHED and LEAVING; a PROVING or JOINED station in a frame becomes LEAVING, with a LINK event and nothing
else; any other becomes DETACHED at once (the entry to DETACHED is stated below). -/
def Obligations.LeaveByLinkState : Prop :=
  ∀ s : State, s.port.resetTaken = false →
    (s.membership.link = .detached ∨ s.membership.link = .leaving →
      exec .leave s = .next (settle s (s.responding [0x03]))) ∧
    (s.membership.link = .proving ∨ s.membership.link = .joined → s.line.medium = .inFrame →
      exec .leave s = .next (settle s ({ s with membership := { s.membership with
        link := .leaving
        events := recordedAfter s.membership.events s.image.frameNumber [.linkChanged .leaving] } }.responding [0x00]))) ∧
    (s.membership.link = .listening ∨ s.membership.link = .stalled ∨ s.membership.link = .withdrawn ∨
        (s.membership.link = .proving ∨ s.membership.link = .joined) ∧ s.line.medium ≠ .inFrame →
      exec .leave s = .next (settle s (s.enterDetached.responding [0x00])))

/-- R65, R3, R10, R90, R101, R119, R134, R167, R76: the entry to DETACHED. Membership and image are emptied, the line controller is idle, the
sources' running state is cleared but for the pins' levels, every claim is given up with an ABANDONED event for each OWNED or
RELEASING line, every WAITING notice (and the one in the round in progress, cut short) becomes DONE (CANCELLED) in posting order,
line entries are orphaned and line flags cleared; the queues, the configuration, masks, pointers, tokens, tally, level and
refusal reason stay. -/
def Obligations.EntryToDetachedEmptiesTheStation : Prop :=
  ∀ s : State, s.TransmitOk →
    let t := s.enterDetached
    (t.membership = { s.membership with
      link := .detached, listeningCount := 0, helloKey := none, remembered := none
      roster := Table.of fun _ => ⟨false, 0⟩, rosterBaseline := true, events := t.membership.events }) ∧
    RecordsGroups s.membership.events t.membership.events s.image.frameNumber [.linkChanged .detached] s.abandonments ∧
    t.line = { s.line with
      medium := .unsynced, phase := .noFrame, lastAcceptedPlan := .silent, followOn := false
      sld := .recessive, slb := .recessive
      quietTimer := .stopped, guardTimer := .stopped, keepaliveTimer := .stopped, stuckTimer := .stopped } ∧
    t.contention = { s.contention with offered := none } ∧
    (∀ i : SourceNo, t.sources[i] = ⟨false, false, 0, false, false, s.sources[i].filtered⟩) ∧
    t.image = ⟨Table.of fun _ => ⟨false, false, false, .nobody, false, false, 0⟩, s.image.frameNumber, true⟩ ∧
    (∀ k : LineNo, t.claims.records[k] = .idle ∧ t.claims.markOwed[k] = false) ∧
    (∀ h : Handle, t.sender.entries[h] = s.sender.entries[h].map fun e =>
      if e.state = .waiting ∨ s.offersNotice h then { e with state := .done .cancelled } else e) ∧
    t.sender.posting = (s.sender.posting.filter fun h =>
      !(entryWaiting s.sender.entries[h] || s.offersNotice h)) ∧
    t.sender.reports = s.sender.reports ++
      ((List.finRange 4).filter fun h => s.offersNotice h && s.sender.entries[h].any (·.cancelRequested)) ++
      (s.sender.posting.filter fun h => entryWaiting s.sender.entries[h] ||
        s.offersNotice h && !s.sender.entries[h].any (·.cancelRequested)) ∧
    t.dispatch = { s.dispatch with
      inService := orphanLines s.dispatch.inService
      edgeFlags := Table.of fun _ => false
      serveFlags := Table.of fun _ => false } ∧
    t.config = s.config ∧ t.straps = s.straps ∧ t.errors = s.errors ∧ t.receiver = s.receiver ∧ t.port = s.port

/-- R53, R68, R3, R90, R120, R134, R167, R76: the entry to WITHDRAWN, which keeps the roster, the listening count, the HELLO key, the image and
the last accepted plan and is otherwise the entry to DETACHED; and WITHDRAWAL, which makes it where the tally stands at 255 in
LISTENING, PROVING, JOINED or LEAVING and otherwise changes nothing (as a step of its own: assumption 7). -/
def Obligations.WithdrawalAtTheTallysCeiling : Prop :=
  ∀ s : State,
    (s.membership.tally = 255 →
      s.membership.link = .listening ∨ s.membership.link = .proving ∨ s.membership.link = .joined ∨
        s.membership.link = .leaving →
      exec .withdrawal s = .next (settle s s.enterWithdrawn)) ∧
    (s.AttnOk → s.membership.tally < 255 ∨ s.membership.link = .detached ∨ s.membership.link = .stalled ∨
        s.membership.link = .withdrawn →
      exec .withdrawal s = .next s) ∧
    (let t := s.enterWithdrawn
     let d := s.enterDetached
     t.membership = { s.membership with
        link := .withdrawn, remembered := none, events := t.membership.events } ∧
     RecordsGroups s.membership.events t.membership.events s.image.frameNumber [.linkChanged .withdrawn] s.abandonments ∧
     t.line = { d.line with lastAcceptedPlan := s.line.lastAcceptedPlan } ∧
     t.contention = d.contention ∧ t.sources = d.sources ∧ t.image = s.image ∧ t.claims = d.claims ∧
     t.sender = d.sender ∧ t.dispatch = d.dispatch ∧
     t.config = s.config ∧ t.straps = s.straps ∧ t.errors = s.errors ∧ t.receiver = s.receiver ∧ t.port = s.port)

/-- R60, R56: PROVING_ENTRY makes a LISTENING station whose listening count has reached 2 PROVING, with a HELLO key from the key generator
(whichever value it has, assumption 3) and a LINK event. R70, R71, R96: PEER_LOST makes a PRESENT entry whose absent count has
passed 2 ABSENT, records PEER_LOST with report_peers on outside the baseline, and removes the station as owner of its lines:
UNKNOWN where the line is held, NONE where not. Elsewhere the two change nothing (the model's choice, assumptions 7 and 8). -/
def Obligations.ProvingEntryAndPeerLostAtTheirCounts : Prop :=
  (∀ s : State,
    (s.membership.link = .listening → 2 ≤ s.membership.listeningCount →
      ∃ key : Tag, exec .provingEntry s = .next (settle s { s with
        membership := { s.membership with
          link := .proving, helloKey := some key, keyGenerator := key
          events := recordedAfter s.membership.events s.image.frameNumber [.linkChanged .proving] }
        freeIndex := s.freeIndex + 1 })) ∧
    (s.AttnOk → s.membership.link ≠ .listening ∨ s.membership.listeningCount < 2 → exec .provingEntry s = .next s)) ∧
  ∀ (n : StationNo) (s : State),
    (s.membership.roster[n].present = true → 2 < s.membership.roster[n].absentCount →
      exec (.peerLost n) s = .next (settle s { s with
        membership := { s.membership with
          roster := s.membership.roster.put n ⟨false, 0⟩
          events := recordedAfter s.membership.events s.image.frameNumber
            (if s.config.station.reportPeers ∧ s.membership.rosterBaseline = false then [.peerLost n] else []) }
        image := { s.image with lines := Table.of fun k =>
          if s.image.lines[k].owner = .station n then
            { s.image.lines[k] with owner := if s.image.lines[k].held then .unknown else .nobody }
          else s.image.lines[k] } })) ∧
    (s.AttnOk → s.membership.roster[n].present = false ∨ s.membership.roster[n].absentCount ≤ 2 →
      exec (.peerLost n) s = .next s)

/-- R74, R47: while the queue holds fewer than 8 records an event is appended with later-events-lost no and the present
accepted-frame number; a full queue drops it and shows in its newest record that later events were lost. Recording changes nothing
but the queue, and the queue appends and drops any record so. -/
def Obligations.EventQueueDropsWhenFullAndMarksNewest : Prop :=
  (∀ (s : State) (e : StationEvent),
    (s.membership.events.length < 8 → s.record e = { s with membership := { s.membership with
      events := s.membership.events ++ [{ event := e, frame := s.image.frameNumber, laterLost := false }] } }) ∧
    ∀ (q : List EventRecord) (newest : EventRecord), q.length = 7 → s.membership.events = q ++ [newest] →
      s.record e = { s with membership := { s.membership with events := q ++ [{ newest with laterLost := true }] } }) ∧
  ∀ (q : List EventRecord) (r : EventRecord),
    (q.length < 8 → appendEvent q r = q ++ [r]) ∧
    (∀ newest : EventRecord, q.length = 7 →
      appendEvent (q ++ [newest]) r = q ++ [{ newest with laterLost := true }])

/-! ## Dispatch (chapter 10) -/

/-- R157, R161, R150: TAKE's selection and token, and the 52 sources with the ranks they take from the configuration. Nothing is selected exactly when nothing is presentable; otherwise the selected source is
presentable and of the lowest rank, and of that rank, with rotate off or the pointer at START, of the lowest index; with rotate
on and the pointer at `p`, of the lowest index above `p`, or of the lowest index if there is none above. The token is the first
value, from the counter on in the cycle 1 to 255, that no entry in service holds. -/
def Obligations.TakeSelectsByRankAndRotation : Prop :=
  ∀ s : State,
    (∀ k : LineNo, (lineDelivery k).val = k.val ∧ s.rankOf (lineDelivery k) = s.config.lines[k].rank) ∧
    s.rankOf 48 = s.config.station.rankA ∧ s.rankOf 49 = s.config.station.rankB ∧
    s.rankOf 50 = s.config.station.rankTransmit ∧ s.rankOf 51 = s.config.station.rankStation ∧
    (s.selected = none ↔ ∀ d, s.presentable d = false) ∧
    (∀ d, s.selected = some d →
      s.presentable d = true ∧ (∀ e, s.presentable e = true → s.rankOf d ≤ s.rankOf e) ∧
      let pointer := s.dispatch.pointers[(⟨(s.rankOf d).toNat, (s.rankOf d).isLt⟩ : Fin 16)]
      (s.config.station.rotate = false ∨ pointer = none →
        ∀ e, s.presentable e = true → s.rankOf e = s.rankOf d → d ≤ e) ∧
      ∀ p, s.config.station.rotate = true → pointer = some p →
        (p < d → ∀ e, s.presentable e = true → s.rankOf e = s.rankOf d → p < e → d ≤ e) ∧
        (d ≤ p → ∀ e, s.presentable e = true → s.rankOf e = s.rankOf d → e ≤ p ∧ d ≤ e)) ∧
    ((s.ServiceOk ∧ s.dispatch.inService.length < 4) →
    ∃ n : Nat, n ≤ 3 ∧ s.dispatch.freshToken = Nat.iterate nextToken n s.dispatch.tokenCounter ∧
      s.dispatch.freshToken ≠ 0 ∧
      (∀ e ∈ s.dispatch.inService, e.token ≠ s.dispatch.freshToken) ∧
      ∀ m < n, ∃ e ∈ s.dispatch.inService, e.token = Nat.iterate nextToken m s.dispatch.tokenCounter)

/-- R161, R157, R159, R160, R162, 11.7.8: what TAKE of source `d` makes of `u`, which is `s` with the source's part taken: the entry appended, the
counter and the rank's pointer set, the delivery record due on LPO, the withdrawn flag cleared. -/
def Sys2Proof.Machine.State.delivering (s u : State) (d : DeliveryNo) (kind : DeliveryKind) (payload : List Byte) : State :=
  let v := { u with
    dispatch := { u.dispatch with
      inService := s.dispatch.inService ++ [ServiceEntry.mk s.dispatch.freshToken d kind (s.rankOf d) false]
      tokenCounter := if s.dispatch.freshToken = 255 then 1 else s.dispatch.freshToken + 1
      pointers := s.dispatch.pointers.put (Fin.mk (s.rankOf d).toNat (s.rankOf d).isLt : Fin 16) (some d)
      withdrawn := false }
    port := ⟨.answering, [0x00, s.dispatch.freshToken, BitVec.ofNat 8 d.val, kind.code, (s.rankOf d).setWidth 8,
      flagsByte [s.dispatch.withdrawn]] ++ payload, 0, false⟩ }
  { v with dispatch := { v.dispatch with attnLow := v.attentionDue } }

/-- R162: TAKE. With nothing presentable it answers EMPTY with the withdrawn flag, which it clears. Otherwise it delivers the selected source by
its kind: the serve or edge flag cleared, the oldest record or report removed, nothing for a LEVEL line. The codes are those of 11.7.4 as written. That
the rank's rotation pointer is set with rotate off too is the model's reading (assumption 25). -/
def Obligations.TakeDeliversTheSelectedSource : Prop :=
  DeliveryCodes ∧ StationCodes ∧ ∀ s : State, s.port.resetTaken = false →
    (s.selected = none →
      exec .take s = .next ({ s with dispatch := { s.dispatch with withdrawn := false, attnLow := false } }.responding
        [0x01, flagsByte [s.dispatch.withdrawn]])) ∧
    (∀ k : LineNo, s.selected = some (lineDelivery k) → s.config.lines[k].role = .serve →
      exec .take s = .next (s.delivering
        { s with dispatch := { s.dispatch with serveFlags := s.dispatch.serveFlags.put k false } } (lineDelivery k)
        .lineServe (BitVec.ofNat 8 k.val :: wordBytes s.image.frameNumber))) ∧
    (∀ k : LineNo, s.selected = some (lineDelivery k) → s.config.lines[k].role = .watch →
      exec .take s = .next (s.delivering
        (if s.config.lines[k].trigger = .edge then
          { s with dispatch := { s.dispatch with edgeFlags := s.dispatch.edgeFlags.put k false } } else s)
        (lineDelivery k) .lineWatch
        ([BitVec.ofNat 8 k.val, flagsByte [s.config.lines[k].trigger == .level], flagsByte [s.image.lines[k].asserted]] ++
          wordBytes s.image.lines[k].lastChange ++ wordBytes s.image.frameNumber))) ∧
    (∀ r rs, s.selected = some 48 → s.receiver.queueA.records = r :: rs →
      exec .take s = .next (s.delivering
        { s with receiver := { s.receiver with queueA := { s.receiver.queueA with records := rs } } } 48 .notice
        ([0] ++ wordBytes (r.tag.setWidth 16) ++ [BitVec.ofNat 8 r.sender.val, r.urgency.setWidth 8, BitVec.ofNat 8 r.length]
          ++ wordBytes r.frame ++ [flagsByte [r.gap]] ++ r.data))) ∧
    (∀ r rs, s.selected = some 49 → s.receiver.queueB.records = r :: rs →
      exec .take s = .next (s.delivering
        { s with receiver := { s.receiver with queueB := { s.receiver.queueB with records := rs } } } 49 .notice
        ([1] ++ wordBytes (r.tag.setWidth 16) ++ [BitVec.ofNat 8 r.sender.val, r.urgency.setWidth 8, BitVec.ofNat 8 r.length]
          ++ wordBytes r.frame ++ [flagsByte [r.gap]] ++ r.data))) ∧
    (∀ h hs e o, s.selected = some 50 → s.sender.reports = h :: hs → s.sender.entries[h] = some e → e.state = .done o →
      exec .take s = .next (s.delivering
        { s with sender := { s.sender with entries := s.sender.entries.put h none, reports := hs } } 50 .transmit
        ([BitVec.ofNat 8 h.val] ++ wordBytes (e.tag.setWidth 16) ++ [o.code]))) ∧
    ∀ r rs, s.selected = some 51 → s.membership.events = r :: rs →
      exec .take s = .next (s.delivering
        { s with membership := { s.membership with events := rs } } 51 .station
        ([r.event.kindCode, r.event.argument] ++ wordBytes r.frame ++ [flagsByte [r.laterLost]]))

/-- R164, R165, R166: what finishing entry `e` with `rest` left in service answers. Orphaned: ORPHANED and nothing more. A serve entry of an OWNED
line makes its record RELEASING, a watch entry of an acknowledged line sets its mark-owed flag, any other finish only removes. -/
def Sys2Proof.Machine.FinishesEntry (c : Instr) (s : State) (e : ServiceEntry) (rest : List ServiceEntry) : Prop :=
  let u : State := { s with dispatch := { s.dispatch with inService := rest } }
  (e.orphaned = true → exec c s = .next (settle s (u.responding [0x06]))) ∧
  (∀ (k : LineNo) (n : Nat), e.orphaned = false → e.kind = .lineServe → e.source = lineDelivery k →
    s.claims.records[k] = .owned n →
    exec c s = .next (settle s ({ u with claims := { s.claims with
      records := s.claims.records.put k .releasing } }.responding [0x00]))) ∧
  (∀ k : LineNo, e.orphaned = false → e.kind = .lineWatch → e.source = lineDelivery k →
    s.config.lines[k].acknowledge = true →
    exec c s = .next (settle s ({ u with claims := { s.claims with
      markOwed := s.claims.markOwed.put k true } }.responding [0x00]))) ∧
  (e.orphaned = false →
    e.kind = .notice ∨ e.kind = .transmit ∨ e.kind = .station ∨
      (∃ k : LineNo, e.kind = .lineWatch ∧ e.source = lineDelivery k ∧ s.config.lines[k].acknowledge = false) →
    exec c s = .next (settle s (u.responding [0x00])))

/-- R164: FINISH NEWEST finishes the newest entry, or answers EMPTY; FINISH finishes the entry that holds the token, wherever it stands, or answers
BAD_ARG for token 0, EMPTY for an empty list, UNKNOWN_TOKEN for a token no entry holds, with nothing changed. -/
def Obligations.FinishRemovesEntryAndHandsItOn : Prop :=
  ∀ s : State, s.port.resetTaken = false →
    (s.dispatch.inService = [] → exec .finishNewest s = .next (settle s (s.responding [0x01]))) ∧
    (∀ rest e, s.dispatch.inService = rest ++ [e] → FinishesEntry .finishNewest s e rest) ∧
    exec (.finish 0) s = .next (settle s (s.responding [0x04])) ∧
    ∀ token : Byte, token ≠ 0 →
      (s.dispatch.inService = [] → exec (.finish token) s = .next (settle s (s.responding [0x01]))) ∧
      (s.dispatch.inService ≠ [] → (∀ e ∈ s.dispatch.inService, e.token ≠ token) →
        exec (.finish token) s = .next (settle s (s.responding [0x07]))) ∧
      ∀ older e newer, s.dispatch.inService = older ++ e :: newer → e.token = token → (∀ o ∈ older, o.token ≠ token) →
        FinishesEntry (.finish token) s e (older ++ newer)

/-- R151: MASK sets and UNMASK clears the mask of one source and nothing else; an index above 51 is answered BAD_ARG and changes nothing. R156: a
source is presentable exactly when it is pending (R152 to R155), its mask is clear, it has no entry in service, fewer than 4
entries are in service, and under NESTED its rank is lower than the newest entry's recorded rank. -/
def Obligations.MasksAndPresentableSources : Prop :=
  (∀ s : State, s.port.resetTaken = false →
    (∀ d : DeliveryNo,
      exec (.mask (BitVec.ofNat 8 d.val)) s = .next (settle s
        ({ s with dispatch := { s.dispatch with masks := s.dispatch.masks.put d true } }.responding [0x00])) ∧
      exec (.unmask (BitVec.ofNat 8 d.val)) s = .next (settle s
        ({ s with dispatch := { s.dispatch with masks := s.dispatch.masks.put d false } }.responding [0x00]))) ∧
    ∀ b : Byte, 51 < b.toNat →
      exec (.mask b) s = .next (settle s (s.responding [0x04])) ∧ exec (.unmask b) s = .next (settle s (s.responding [0x04]))) ∧
  ∀ (s : State) (d : DeliveryNo),
    (s.presentable d = true ↔
      s.sourcePending d = true ∧ s.dispatch.masks[d] = false ∧ (∀ e ∈ s.dispatch.inService, e.source ≠ d) ∧
      s.dispatch.inService.length < 4 ∧
      (s.config.station.discipline = .nested → ∀ e, s.dispatch.inService.getLast? = some e → s.rankOf d < e.rank)) ∧
    (∀ k : LineNo, s.sourcePending (lineDelivery k) = true ↔
      s.config.lines[k].role = .watch ∧ s.config.lines[k].trigger = .edge ∧ s.dispatch.edgeFlags[k] = true ∨
      s.config.lines[k].role = .watch ∧ s.config.lines[k].trigger = .level ∧ s.membership.link = .joined ∧
        s.image.lines[k].asserted = true ∨
      s.config.lines[k].role = .serve ∧ s.dispatch.serveFlags[k] = true) ∧
    (s.sourcePending 48 = true ↔ s.receiver.queueA.records ≠ []) ∧
    (s.sourcePending 49 = true ↔ s.receiver.queueB.records ≠ []) ∧
    (s.sourcePending 50 = true ↔ s.sender.reports ≠ []) ∧
    (s.sourcePending 51 = true ↔ s.membership.events ≠ [])

/-- R159: every TAKE clears the withdrawn flag; every other command but a reset leaves it set where it was set, and sets it exactly when a source
presentable before the command is not presentable after it. (The moments compared are the model's reading, assumption 9.) -/
def Obligations.WithdrawnFlagShowsALostPresentation : Prop :=
  ∀ (c : Instr) (s : State), s.port.resetTaken = false → (∀ n r, c ≠ .pinReset n r) →
    ∃ t, exec c s = .next t ∧
      (t.dispatch.withdrawn = true ↔
        c ≠ .take ∧ (s.dispatch.withdrawn = true ∨ ∃ d, s.presentable d = true ∧ t.presentable d = false))

/-! ## Local sources (chapter 5) -/

/-- R81, R82, R84: ASSERT SOURCE and RELEASE SOURCE answer BAD_ARG above 3 and REFUSED in DETACHED and WITHDRAWN, with nothing changed;
otherwise they set the soft level of S0 to S3 (indices 12 to 15), and each ASSERT SOURCE is an active edge. That a number above 3 is
answered BAD_ARG in DETACHED and WITHDRAWN too is the model's choice (assumption 24). -/
def Obligations.SoftSourceCommandsSetLevelAndEdge : Prop :=
  ∀ s : State, s.port.resetTaken = false →
    (∀ b : Byte, 3 < b.toNat →
      exec (.assertSource b) s = .next (settle s (s.responding [0x04])) ∧
      exec (.releaseSource b) s = .next (settle s (s.responding [0x04]))) ∧
    ∀ (b : Byte) (i : SourceNo), b.toNat + 12 = i.val →
      (s.membership.link = .detached ∨ s.membership.link = .withdrawn →
        exec (.assertSource b) s = .next (settle s (s.responding [0x03])) ∧
        exec (.releaseSource b) s = .next (settle s (s.responding [0x03]))) ∧
      (s.membership.link.onLine →
        (∃ r', EdgeTaken s.config.sources[i] { s.sources[i] with softActive := true } r' ∧
          exec (.assertSource b) s =
            .next (settle s ({ s with sources := s.sources.put i r' }.responding [0x00]))) ∧
        exec (.releaseSource b) s = .next (settle s ({ s with
          sources := s.sources.put i { s.sources[i] with softActive := false } }.responding [0x00])))

/-- R79: whether a filtered pin level is active against a polarity. -/
def Sys2Proof.Machine.ActiveLevel (polarity : Polarity) (level : PinLevel) : Prop :=
  polarity = .high ∧ level = .high ∨ polarity = .low ∧ level = .low

/-- R79, R80, R84: a pin that has settled takes the level in every link state. A change from inactive to active is an active edge, taken outside
DETACHED and WITHDRAWN; the first setting after a reset, a change to inactive and a level unchanged give none. -/
def Obligations.QualifiedPinLevelGivesEdgeOnActivation : Prop :=
  ∀ (p : PinNo) (level : PinLevel) (s : State) (i : SourceNo), i.val = p.val →
    let c := s.config.sources[i]
    let r := { s.sources[i] with filtered := some level }
    (∀ before, s.sources[i].filtered = some before → ¬ ActiveLevel c.polarity before → ActiveLevel c.polarity level →
      s.membership.link.onLine →
      ∃ r', EdgeTaken c r r' ∧
        exec (.qualifiedLevelChange p level) s = .next (settle s { s with sources := s.sources.put i r' })) ∧
    (s.sources[i].filtered = none ∨ (∃ before, s.sources[i].filtered = some before ∧ ActiveLevel c.polarity before) ∨
        ¬ ActiveLevel c.polarity level ∨ ¬ s.membership.link.onLine →
      exec (.qualifiedLevelChange p level) s = .next (settle s { s with sources := s.sources.put i r }))

/-- R86, R113, R129 as steps of their own (assumption 7): a HOLDING PULSE source whose count stands at 0 becomes IDLE, or starts again if an edge
is remembered; a claim whose hold counter stands at the hold limit is abandoned with its event, its serve flag cleared and its
entry orphaned; a WON entry whose void count stands at 8 with no cancel becomes DONE (VOIDED_OUT). Elsewhere nothing changes. -/
def Obligations.ThresholdsEndPulseClaimAndNotice : Prop :=
  ∀ s : State,
    (∀ i : SourceNo, let r := s.sources[i]
      let due := s.config.sources[i].discipline = .pulse ∧ r.holding = true ∧ r.pulseCount = 0
      let ended := if r.again then { r with again := false, pulseCount := s.config.sources[i].pulseFrames.toNat }
        else { r with holding := false }
      (due → exec (.pulseExpiry i) s = .next (settle s { s with sources := s.sources.put i ended })) ∧
      (s.AttnOk → ¬ due → exec (.pulseExpiry i) s = .next s)) ∧
    (∀ k : LineNo,
      (∀ n, s.claims.records[k] = .owned n → s.config.station.holdLimit.toNat * 8 ≤ n →
        exec (.holdLimitAbandon k) s = .next (settle s { s with
          claims := { s.claims with records := s.claims.records.put k .idle }
          dispatch := { s.dispatch with
            serveFlags := s.dispatch.serveFlags.put k false
            inService := s.dispatch.inService.map fun e =>
              if e.kind = .lineServe ∧ e.source = lineDelivery k then { e with orphaned := true } else e }
          membership := { s.membership with
            events := recordedAfter s.membership.events s.image.frameNumber [.abandoned k] } })) ∧
      (s.AttnOk → (∀ n, s.claims.records[k] = .owned n → n < s.config.station.holdLimit.toNat * 8) →
        exec (.holdLimitAbandon k) s = .next s)) ∧
    ∀ h : Handle,
      (∀ e, s.sender.entries[h] = some e → e.state = .won → e.cancelRequested = false → 8 ≤ e.voidCount →
        exec (.noticeVoidedOut h) s = .next (settle s { s with sender := {
          entries := s.sender.entries.put h (some { e with state := .done .voidedOut })
          posting := s.sender.posting.filter (· ≠ h)
          reports := s.sender.reports ++ [h] } })) ∧
      (s.AttnOk → (∀ e, s.sender.entries[h] = some e → e.state ≠ .won ∨ e.cancelRequested = true ∨ e.voidCount < 8) →
        exec (.noticeVoidedOut h) s = .next s)

/-! ## Notices (chapters 8 and 9) -/

/-- R126, R125: POST NOTICE answers by the first row that applies: REFUSED in DETACHED, LEAVING and WITHDRAWN; BAD_ARG for a tag above 2047, an
urgency or a length above its range; FULL with no FREE entry; otherwise OK with the lowest FREE handle, whose entry is filled as
WAITING and stands last in the posting order. -/
def Obligations.PostNoticeFillsLowestFreeEntry : Prop :=
  ∀ s : State, s.port.resetTaken = false →
    let off := s.membership.link = .detached ∨ s.membership.link = .leaving ∨ s.membership.link = .withdrawn
    (∀ (tag : Word16) (urgency length : Byte) (data : List Byte),
      (off → exec (.postNotice tag urgency length data) s = .next (settle s (s.responding [0x03]))) ∧
      (¬ off → 2047 < tag.toNat ∨ 15 < urgency.toNat ∨ 8 < length.toNat →
        exec (.postNotice tag urgency length data) s = .next (settle s (s.responding [0x04])))) ∧
    ∀ (tag : Tag) (urgency : Urgency) (data : List Byte), ¬ off → data.length ≤ 8 →
      ((∀ h : Handle, s.sender.entries[h] ≠ none) →
        exec (.postNotice (tag.setWidth 16) (urgency.setWidth 8) (BitVec.ofNat 8 data.length) data) s =
          .next (settle s (s.responding [0x02]))) ∧
      ∀ h : Handle, s.sender.entries[h] = none → (∀ g : Handle, g < h → s.sender.entries[g] ≠ none) →
        exec (.postNotice (tag.setWidth 16) (urgency.setWidth 8) (BitVec.ofNat 8 data.length) data) s =
          .next (settle s ({ s with sender := { s.sender with
            entries := s.sender.entries.put h (some ⟨tag, urgency, data, 0, false, .waiting⟩)
            posting := s.sender.posting ++ [h] } }.responding [0x00, BitVec.ofNat 8 h.val]))

/-- R130: CANCEL NOTICE answers BAD_ARG above 3; frees a WAITING entry without a report; notes the request in a CONTENDING or WON entry
(DEFERRED); and is REFUSED for a FREE or DONE entry. -/
def Obligations.CancelNoticeByEntryState : Prop :=
  ∀ s : State, s.port.resetTaken = false →
    (∀ b : Byte, 3 < b.toNat → exec (.cancelNotice b) s = .next (settle s (s.responding [0x04]))) ∧
    ∀ (b : Byte) (h : Handle), b.toNat = h.val →
      (s.sender.entries[h] = none → exec (.cancelNotice b) s = .next (settle s (s.responding [0x03]))) ∧
      ∀ e, s.sender.entries[h] = some e →
        (e.state = .waiting → exec (.cancelNotice b) s = .next (settle s ({ s with sender := { s.sender with
          entries := s.sender.entries.put h none
          posting := s.sender.posting.filter (· ≠ h) } }.responding [0x00]))) ∧
        (e.state = .contending ∨ e.state = .won →
          exec (.cancelNotice b) s = .next (settle s ({ s with sender := { s.sender with
            entries := s.sender.entries.put h (some { e with cancelRequested := true }) } }.responding [0x05]))) ∧
        (∀ o, e.state = .done o → exec (.cancelNotice b) s = .next (settle s (s.responding [0x03])))

/-! ## The medium (chapter 1) -/

/-- R4, R21, R67, R11, R13: MEDIUM_QUIET in UNSYNCED or STALLED makes the medium QUIET with the keepalive restarted and the guard passed, and
returns a STALLED station to the state it remembered, LISTENING from a count of 0; KEEPALIVE_EXPIRED and GUARD_PASSED end a
running interval. Elsewhere nothing changes (the model's choice, assumption 8). -/
def Obligations.QuietAndTimerEndsAtTheLine : Prop :=
  ∀ s : State,
    (s.membership.link ≠ .detached → s.membership.link ≠ .withdrawn → s.line.medium = .unsynced ∨ s.line.medium = .stalled →
      let l := { s.line with
        medium := .quiet, quietTimer := .stopped, guardTimer := .reached, keepaliveTimer := .running, stuckTimer := .running }
      (s.membership.link ≠ .stalled → exec .mediumQuiet s = .next (settle s { s with line := l })) ∧
      ∀ r, s.membership.link = .stalled → s.membership.remembered = some r →
        let back := match r with
          | .listening => LinkState.listening
          | .proving => LinkState.proving
          | .joined => LinkState.joined
        exec .mediumQuiet s = .next (settle s { s with
          line := l
          membership := { s.membership with
            link := back, remembered := none
            listeningCount := if back = .listening then 0 else s.membership.listeningCount
            events := recordedAfter s.membership.events s.image.frameNumber [.linkChanged back] } })) ∧
    (s.AttnOk → s.membership.link = .detached ∨ s.membership.link = .withdrawn ∨
        s.line.medium = .quiet ∨ s.line.medium = .inFrame → exec .mediumQuiet s = .next s) ∧
    (s.AttnOk →
      exec .keepaliveExpired s = .next { s with line := { s.line with
        keepaliveTimer := if s.line.keepaliveTimer = .running then .reached else s.line.keepaliveTimer } } ∧
      exec .guardPassed s = .next { s with line := { s.line with
        guardTimer := if s.line.guardTimer = .running then .reached else s.line.guardTimer } })

/-- R9, R83, R85: the frame plan latched from the blocks: the own roster slot in PROVING and JOINED; line `k` in JOINED when a source of line `k`
contributes (a FOLLOW source by its level, the others by HOLDING); held `k` for an OWNED record; mark `k` for a mark-owed flag or
a RELEASING record; every slot recessive in any other link state. R12, R107: the station has news exactly when it is PROVING or
JOINED and one of the five reasons holds. (A PROVING station's HELLO has won no round of an accepted frame, since that win ends
PROVING, R61.) -/
def Obligations.FramePlanAndNewsFollowTheBlocks : Prop :=
  (∀ s : State, let plan := s.planNow
    let on := s.membership.link = .proving ∨ s.membership.link = .joined
    (plan.roster = .dominant ↔ on) ∧
    ∀ k : LineNo,
      (plan.line[k] = .dominant ↔ s.membership.link = .joined ∧ ∃ i : SourceNo, s.config.sources[i].line = some k ∧
        (s.config.sources[i].discipline = .follow →
          (i.val < 12 → ∃ l, s.sources[i].filtered = some l ∧ ActiveLevel s.config.sources[i].polarity l) ∧
          (12 ≤ i.val → s.sources[i].softActive = true)) ∧
        (s.config.sources[i].discipline ≠ .follow → s.sources[i].holding = true)) ∧
      (plan.held[k] = .dominant ↔ on ∧ ∃ n, s.claims.records[k] = .owned n) ∧
      (plan.mark[k] = .dominant ↔ on ∧ (s.claims.markOwed[k] = true ∨ s.claims.records[k] = .releasing))) ∧
  ∀ s : State, s.news = true ↔
    (s.membership.link = .proving ∨ s.membership.link = .joined) ∧
    (s.planNow ≠ s.line.lastAcceptedPlan ∨
     (∃ k : LineNo, s.claims.markOwed[k] = true ∨ s.claims.records[k] = .releasing) ∨
     s.membership.link = .proving ∨
     (s.membership.link = .joined ∧ ∃ (h : Handle) (e : TransmitEntry), s.sender.entries[h] = some e ∧ e.state = .waiting) ∨
     ∃ k : LineNo, s.membership.link = .joined ∧ s.membership.level ≠ .muted ∧ s.config.lines[k].role = .serve ∧
       s.claims.records[k] = .idle ∧ s.dispatch.serveFlags[k] = false ∧
       (∀ e ∈ s.dispatch.inService, e.source ≠ lineDelivery k) ∧
       s.image.lines[k].owner = .nobody ∧ s.image.lines[k].asserted = true ∧ s.image.lines[k].held = false)

/-- R13, R16, R5: a LISTENING, PROVING or JOINED station that is QUIET with the guard passed opens a frame for its expired keepalive or its
news, and one in PROVING or JOINED for its follow-on request whatever its news; START_OBSERVED in QUIET makes it a participant
of a peer's frame. Elsewhere nothing changes (the model's choice, assumption 8). The new frame begins with the
contention state emptied (assumptions 16 and 21), the slot samples recessive (assumption 27) and the verdict drive recessive until its
verdict beat (assumption 19). -/
def Obligations.StartMarkMakesAParticipant : Prop :=
  ∀ s : State,
    let may := s.line.medium = .quiet ∧
      (s.membership.link = .listening ∨ s.membership.link = .proving ∨ s.membership.link = .joined)
    let opens := may ∧ s.line.guardTimer = .reached ∧ (s.line.keepaliveTimer = .reached ∨ s.news = true)
    let follows := s.line.followOn = true ∧ s.line.medium = .quiet ∧ s.line.guardTimer = .reached ∧
      (s.membership.link = .proving ∨ s.membership.link = .joined)
    (opens → exec .openFrame s = .next (settle s (s.inNewFrame true))) ∧
    (follows → exec .followOnStart s = .next (settle s (s.inNewFrame true))) ∧
    (may → exec .startObserved s = .next (settle s (s.inNewFrame false))) ∧
    (s.AttnOk →
      (¬ opens → exec .openFrame s = .next s) ∧ (¬ follows → exec .followOnStart s = .next s) ∧
      (¬ may → exec .startObserved s = .next s))

/-- R14, R52: at the follow-on beat a station drives dominant exactly when it has news, whatever its fault level, remembers it, and goes on to
the closing beat; where BEAT_START has begun the beat, what it remembered there stands (assumption 11). R15, R64, R11: after the
closing beat, with both wires high, the medium is QUIET, the guard count and the keepalive timer start, and a LEAVING station
becomes DETACHED. Elsewhere nothing changes (the model's choice, assumption 8). -/
def Obligations.FollowOnAndStopCloseTheFrame : Prop :=
  (∀ s : State,
    (s.line.medium = .inFrame → s.line.phase = .followOn →
      let asks := if s.line.slb = .dominant then s.line.followOn else s.news
      exec .followOnBeat s = .next (settle s { s with line := { s.line with
        followOn := asks, sld := if asks then .dominant else .recessive
        beatCount := s.line.beatCount + 1, slb := .recessive, phase := .closing } })) ∧
    (s.AttnOk → s.line.medium ≠ .inFrame ∨ s.line.phase ≠ .followOn → exec .followOnBeat s = .next s)) ∧
  ∀ s : State,
    (s.line.medium = .inFrame → s.line.phase = .closed →
      let u := { s with line := { s.line with
        medium := .quiet, phase := .noFrame, sld := .recessive, slb := .recessive
        guardTimer := .running, keepaliveTimer := .running } }
      (s.membership.link ≠ .leaving → exec .stopObserved s = .next (settle s u)) ∧
      (s.membership.link = .leaving → exec .stopObserved s = .next (settle s u.enterDetached))) ∧
    (s.AttnOk → s.line.medium ≠ .inFrame ∨ s.line.phase ≠ .closed → exec .stopObserved s = .next s)

/-! ## Frames that are not accepted (chapters 1, 3, 7 and 8) -/

/-- R129: a WON entry after a frame that was voided, locally discarded or broken. -/
def Sys2Proof.Machine.TransmitEntry.afterVoid (e : TransmitEntry) : TransmitEntry :=
  { e with
    voidCount := e.voidCount + 1
    state := if e.cancelRequested then .done .cancelled else if 8 ≤ e.voidCount + 1 then .done .voidedOut else .waiting }

/-- R129: a WON entry after a frame given up at a stuck medium: no void count is raised. -/
def Sys2Proof.Machine.TransmitEntry.afterStuck (e : TransmitEntry) : TransmitEntry :=
  { e with state := if e.cancelRequested then .done .cancelled else .waiting }

/-- R129, R131: every WON entry of `before` settled, an entry that becomes DONE leaving the posting order and joining the report order in the
order of the rounds won. -/
def Sys2Proof.Machine.WonEntriesSettled (settled : TransmitEntry → TransmitEntry) (ws : List WinnerRecord)
    (before after : Sender) : Prop :=
  let won := fun h : Handle => before.entries[h].any fun e => e.state == .won
  let done := fun h : Handle => won h && before.entries[h].any fun e => (settled e).state != .waiting
  (∀ h : Handle, after.entries[h] = before.entries[h].map fun e => if e.state = .won then settled e else e) ∧
  after.posting = before.posting.filter (!done ·) ∧
  after.reports = before.reports ++ ((roundOrder ws).filter done).eraseDups

/-- R127: the item offered in the round in progress handed back as lost: a CONTENDING entry is WAITING again in its posting place, or DONE
(CANCELLED) and last in the report order when its cancel was requested. -/
def Sys2Proof.Machine.NoticeHandedBack (offered : Option Item) (before after : Sender) : Prop :=
  (∀ h e, offered = some (.notice h) → before.entries[h] = some e → e.state = .contending →
    after = if e.cancelRequested then
        ⟨before.entries.put h (some { e with state := .done .cancelled }), before.posting.filter (· ≠ h),
          before.reports ++ [h]⟩
      else { before with entries := before.entries.put h (some { e with state := .waiting }) }) ∧
  ((∀ h e, offered = some (.notice h) → before.entries[h] = some e → e.state ≠ .contending) → after = before)

/-- R109, R111: the claim records after a frame that is not accepted, with `offered` the item of a round cut short. -/
def Sys2Proof.Machine.ClaimsDropped (offered : Option Item) (before after : Claims) : Prop :=
  after.markOwed = before.markOwed ∧
  ∀ k : LineNo, after.records[k] =
    if before.records[k] = .won ∨ offered = some (.claim k) ∧ before.records[k] = .contending then .idle
    else before.records[k]

/-- R48, R50, R51: the membership unit of `s` with the tally changed to `tally`: the level re-evaluated, a change of it recorded. -/
def Sys2Proof.Machine.State.tallied (s : State) (tally : Nat) : Membership :=
  let level := levelAfter s.membership.level tally
  { s.membership with
    tally, level
    events := recordedAfter s.membership.events s.image.frameNumber
      (if level = s.membership.level then [] else [.levelChanged level]) }

/-- R17, R18, R45, R48, R50, R53, R109, R111, R127, R129: a mark up to the end of the verdict beat breaks the frame: it counts +8, WON claims and
notices fall, the item of the round in progress is handed back; a LEAVING station becomes DETACHED, a tally of 255 withdraws any
other; otherwise a start mark opens a new frame (its verdict drive: assumption 19, its empty contention state: assumptions 16 and 21,
its recessive samples: assumption 27; what it leaves where it opens none: assumption 23) and a stop mark leaves the station UNSYNCED with
the keepalive restarted.
That a mark command within the low half of a beat is taken is assumption 26. -/
def Obligations.MarkInFrameBreaksIt : Prop :=
  ∀ s : State, s.line.medium = .inFrame →
    s.line.phase = .slots ∨ s.line.phase = .enter ∨ s.line.phase = .word ∨ s.line.phase = .body ∨
      s.line.phase = .roundEnd ∨ s.line.phase = .verdict →
    let r := s.settleRound
    ∃ (claims : Claims) (half sender : Sender), ClaimsDropped r.contention.offered r.claims claims ∧
      WonEntriesSettled TransmitEntry.afterVoid r.contention.winners r.sender half ∧
      NoticeHandedBack r.contention.offered half sender ∧
      let b := { r with
        errors := { r.errors with formFault := true }
        line := { r.line with phase := .noFrame, followOn := false, sld := .recessive, slb := .recessive }
        membership := r.tallied (min 255 (r.membership.tally + 8))
        contention := { r.contention with offered := none }
        claims, sender }
      (r.membership.link = .leaving →
        exec .frameBrokenByStart s = .next (settle s b.enterDetached) ∧
        exec .frameBrokenByStop s = .next (settle s b.enterDetached)) ∧
      (r.membership.link = .listening ∨ r.membership.link = .proving ∨ r.membership.link = .joined →
        (247 ≤ r.membership.tally →
          exec .frameBrokenByStart s = .next (settle s b.enterWithdrawn) ∧
          exec .frameBrokenByStop s = .next (settle s b.enterWithdrawn)) ∧
        (r.membership.tally < 247 →
          exec .frameBrokenByStart s = .next (settle s (b.inNewFrame false)) ∧
          exec .frameBrokenByStop s = .next (settle s { b with line := { b.line with
            medium := .unsynced, quietTimer := .running, guardTimer := .stopped, keepaliveTimer := .running } })))

/-- R50: the level after a change of the tally, row by row. -/
def Obligations.FaultLevelFollowsTallyWithHysteresis : Prop :=
  ∀ tally : Nat,
    (160 ≤ tally → ∀ l, levelAfter l tally = .muted) ∧
    (128 ≤ tally → tally ≤ 159 → levelAfter .muted tally = .muted) ∧
    (96 ≤ tally → tally ≤ 159 → levelAfter .clean tally = .warned) ∧
    (64 ≤ tally → tally ≤ 159 → levelAfter .warned tally = .warned) ∧
    (64 ≤ tally → tally ≤ 127 → levelAfter .muted tally = .warned) ∧
    (tally ≤ 95 → levelAfter .clean tally = .clean) ∧
    (tally ≤ 63 → levelAfter .warned tally = .clean ∧ levelAfter .muted tally = .clean)

/-- R19: a mark after the verdict beat and before the end of the closing beat leaves the outcome and ends the frame: a start mark opens a new one, a
stop mark leaves the station UNSYNCED with the keepalive restarted, a follow-on request is dropped, and a LEAVING station becomes
DETACHED. Elsewhere nothing changes (the model's choice, assumption 8). The verdict drive of a new frame is assumption 19's, and
its empty contention state that of assumptions 16 and 21; its recessive
samples are assumption 27's; what the mark leaves in a station that becomes DETACHED is assumption 23's. That a mark command within
the low half of a beat is taken is assumption 26. -/
def Obligations.LateMarkEndsFrameWithOutcomeStanding : Prop :=
  ∀ (m : MarkKind) (s : State),
    (s.line.medium = .inFrame → s.line.phase = .followOn ∨ s.line.phase = .closing →
      (s.membership.link = .leaving → exec (.lateMark m) s = .next (settle s s.enterDetached)) ∧
      (s.membership.link ≠ .leaving →
        exec (.lateMark .start) s = .next (settle s (s.inNewFrame false)) ∧
        exec (.lateMark .stop) s = .next (settle s { s with line := { s.line with
          medium := .unsynced, phase := .noFrame, followOn := false, sld := .recessive, slb := .recessive
          quietTimer := .running, guardTimer := .stopped, keepaliveTimer := .running } }))) ∧
    (s.AttnOk → s.line.medium ≠ .inFrame ∨ s.line.phase ≠ .followOn ∧ s.line.phase ≠ .closing →
      exec (.lateMark m) s = .next s)

/-- R20, R66, R109, R111, R127, R129: at a stuck medium the station releases both wires and gives up its frame with no tally, void count or accepted
state changed; LISTENING, PROVING and JOINED become STALLED and are remembered, LEAVING becomes DETACHED. In STALLED, DETACHED
and WITHDRAWN the stuck timer does not run, and nothing changes. That several notices that become DONE (CANCELLED) here are reported
in the order of their rounds is the model's choice (assumption 20). -/
def Obligations.StuckMediumStallsTheStation : Prop :=
  ∀ s : State,
    (s.membership.link ≠ .detached → s.membership.link ≠ .withdrawn → s.membership.link ≠ .stalled →
      s.line.medium ≠ .stalled →
      let r := s.settleRound
      ∃ (claims : Claims) (half sender : Sender), ClaimsDropped r.contention.offered r.claims claims ∧
        WonEntriesSettled TransmitEntry.afterStuck r.contention.winners r.sender half ∧
        NoticeHandedBack r.contention.offered half sender ∧
        let b := { r with
          line := { r.line with
            medium := .stalled, phase := .noFrame, followOn := false, sld := .recessive, slb := .recessive
            quietTimer := .running, guardTimer := .stopped, stuckTimer := .stopped }
          contention := { r.contention with offered := none }
          claims, sender }
        (s.membership.link = .leaving → exec .mediumStuck s = .next (settle s b.enterDetached)) ∧
        ∀ was : Remembered,
          s.membership.link = (match was with
            | .listening => LinkState.listening
            | .proving => LinkState.proving
            | .joined => LinkState.joined) →
          exec .mediumStuck s = .next (settle s { b with membership := { r.membership with
            link := .stalled, remembered := some was
            events := recordedAfter r.membership.events r.image.frameNumber [.linkChanged .stalled] } })) ∧
    (s.AttnOk → s.membership.link = .detached ∨ s.membership.link = .withdrawn ∨ s.line.medium = .stalled →
      exec .mediumStuck s = .next s)

/-! ## Beats and rounds (chapters 1 and 2) -/

/-- R7, R9: in slot beat `n` (0 being beat 1) the level the plan gives: the own roster slot, then lines, held and mark slots 0 to 47; recessive in
the roster slots of other stations. -/
def Sys2Proof.Machine.PlannedSlot (s : State) (n : Nat) (level : Level) : Prop :=
  (n = s.straps.stationNumber.val → level = s.line.plan.roster) ∧
  (n < 32 → n ≠ s.straps.stationNumber.val → level = .recessive) ∧
  ∀ k : LineNo,
    (n = 32 + k.val → level = s.line.plan.line[k]) ∧
    (n = 80 + k.val → level = s.line.plan.held[k]) ∧
    (n = 128 + k.val → level = s.line.plan.mark[k])

/-- R43: the verdict drive. -/
def Sys2Proof.Machine.VerdictLevel (s : State) (level : Level) : Prop :=
  level = .dominant ↔
    (s.errors.driveFault = true ∨ s.errors.checkFault = true ∨ s.errors.formFault = true) ∧
    s.membership.level ≠ .muted ∧
    (s.membership.link = .proving ∨ s.membership.link = .joined ∨ s.membership.link = .leaving)

/-- R26, R108, R127: the station with its item recorded as offered and the owning block told. -/
def Sys2Proof.Machine.OfferMade (item : Option Item) (s t : State) : Prop :=
  t = { s with
    contention := { s.contention with offered := item }, claims := t.claims, sender := t.sender } ∧
  t.claims.markOwed = s.claims.markOwed ∧
  (∀ k : LineNo, t.claims.records[k] = if item = some (.claim k) then .contending else s.claims.records[k]) ∧
  t.sender.posting = s.sender.posting ∧ t.sender.reports = s.sender.reports ∧
  ∀ h : Handle, t.sender.entries[h] = if item = some (.notice h) then
    s.sender.entries[h].map fun e => { e with state := .contending } else s.sender.entries[h]

/-- R6, R7, R23, R30, R32, R43, R14, R15, R40: at the fall of SLB a participant pulls SLB and sets SLD for the beat: its planned slot; dominant to
enter a round or to follow on with news; its own word or body as CONTENDER, recessive as RECEIVER; its verdict; dominant in the
closing beat. At an enter beat its item is offered, and at the follow-on beat its drive is remembered. Outside a frame, within a
beat and after the closing beat nothing changes (assumption 8). That the two edges of a beat are commands of their own, and that
SLD keeps its drive from the one to the other, is assumption 11.
That the pull on SLB that begins here stands until the end of the beat is assumption 30. -/
def Obligations.BeatStartDrivesTheBeat : Prop :=
  ∀ s : State,
    (s.line.medium = .inFrame → s.line.slb = .recessive → s.line.phase ≠ .noFrame → s.line.phase ≠ .closed →
      let r := s.settleRound
      ∃ (drive : Level) (o : State),
        exec .beatStart s = .next (settle s { o with
          line := { r.line with
            slb := .dominant, sld := drive
            followOn := if r.line.phase = .followOn then r.news else r.line.followOn }
          errors := if r.line.phase = .verdict then { r.errors with verdictDrive := drive } else r.errors }) ∧
        (r.line.phase ≠ .enter → o = r) ∧
        (r.line.phase = .enter → OfferMade (r.lowestItem r.candidates) r o) ∧
        (r.line.phase = .slots → r.line.beatCount < 176 → PlannedSlot r r.line.beatCount drive) ∧
        (r.line.phase = .enter → (drive = .dominant ↔ r.candidates ≠ [])) ∧
        (r.line.phase = .word → r.contention.role = .contender → ∀ item, r.contention.offered = some item →
          drive.bit = (r.itemWord item).getMsbD r.contention.word.length) ∧
        (r.line.phase = .word ∨ r.line.phase = .body → r.contention.role = .receiver → drive = .recessive) ∧
        (r.line.phase = .body → r.contention.role = .contender → drive = r.ownBodyBeat r.contention.body.length) ∧
        (r.line.phase = .verdict → VerdictLevel r drive) ∧
        (r.line.phase = .followOn → (drive = .dominant ↔ r.news = true)) ∧
        (r.line.phase = .closing → drive = .dominant)) ∧
    (s.AttnOk → s.line.medium ≠ .inFrame ∨ s.line.slb = .dominant ∨ s.line.phase = .noFrame ∨ s.line.phase = .closed →
      exec .beatStart s = .next s)

/-- R6, R7, R41: at the rise of SLB that ends a slot beat the sample is stored in that slot alone, a slot driven dominant and sampled recessive is a
DRIVE_FAULT, the beat is counted, and after beat 176 the enter beat follows (how SLD stands between beats: assumption 11). -/
def Obligations.SlotBeatStoresItsSample : Prop :=
  ∀ (s : State) (sample : Level), s.line.medium = .inFrame → s.line.slb = .dominant → s.line.phase = .slots →
    s.line.beatCount < 176 →
    ∃ (drive : Level) (samples : SlotSamples), PlannedSlot s s.line.beatCount drive ∧
      (∀ n : StationNo, samples.roster[n] = if s.line.beatCount = n.val then sample else s.line.samples.roster[n]) ∧
      (∀ k : LineNo,
        samples.line[k] = (if s.line.beatCount = 32 + k.val then sample else s.line.samples.line[k]) ∧
        samples.held[k] = (if s.line.beatCount = 80 + k.val then sample else s.line.samples.held[k]) ∧
        samples.mark[k] = (if s.line.beatCount = 128 + k.val then sample else s.line.samples.mark[k])) ∧
      exec (.beatEnd sample) s = .next (settle s { s with
        line := { s.line with
          samples, beatCount := s.line.beatCount + 1, slb := .recessive, sld := drive
          phase := if s.line.beatCount = 175 then .enter else .slots }
        errors := { s.errors with
          driveFault := s.errors.driveFault || (drive == .dominant && sample == .recessive) } })

/-- R34: the check register after one more beat: shifted by one place with a zero entering, and combined with the pattern of places 12, 5 and 0 where
the beat differs from place 15. -/
def Sys2Proof.Machine.checkAfter (register : BitVec 16) (beat : Level) : BitVec 16 :=
  if register.getLsbD 15 = beat.bit then register <<< 1 else (register <<< 1) ^^^ 0b0001000000100001

/-- R7, R30, R31, R34, R41, R42: at the end of a word beat the sample and the check are taken in; a CONTENDER whose sample differs from its drive
becomes a RECEIVER, with a DRIVE_FAULT if it drove dominant. After beat 22 a malformed word is a FORM_FAULT, and a body follows a
NOTICE. The closing beat's sample is not used, and SLD is released after it (R15; the half beat period it waits is timing,
assumption 10). That BEAT_END ends an enter, verdict or follow-on beat as that beat's own command does is assumption 11. -/
def Obligations.WordBeatIsReadAndCompared : Prop :=
  ∀ (s : State) (sample : Level), s.line.medium = .inFrame → s.line.slb = .dominant →
    (s.line.phase = .word →
      ∃ drive : Level,
        (s.contention.role = .receiver → drive = .recessive) ∧
        (s.contention.role = .contender → ∀ item, s.contention.offered = some item →
          drive.bit = (s.itemWord item).getMsbD s.contention.word.length) ∧
        let word := s.contention.word ++ [sample]
        let contends := s.contention.role = .contender
        let fault := decide contends && drive == .dominant && sample == .recessive
        let malformed := decide (22 ≤ word.length) &&
          (wordKind word == .unassigned || wordKind word == .claim && decide (47 < (wordKey word).toNat))
        exec (.beatEnd sample) s = .next (settle s { s with
          contention := { s.contention with
            word, check := checkAfter s.contention.check sample
            role := if contends ∧ drive ≠ sample then .receiver else s.contention.role
            driveFault := s.contention.driveFault || fault
            formFault := s.contention.formFault || malformed }
          errors := { s.errors with
            driveFault := s.errors.driveFault || fault, formFault := s.errors.formFault || malformed }
          line := { s.line with
            beatCount := s.line.beatCount + 1, slb := .recessive, sld := drive
            phase := if word.length < 22 then .word else if wordKind word = .notice then .body else .roundEnd } })) ∧
    (s.line.phase = .closing →
      exec (.beatEnd sample) s = .next (settle s { s with line := { s.line with
        beatCount := s.line.beatCount + 1, slb := .recessive, sld := .recessive, phase := .closed } })) ∧
    (s.line.phase = .enter → exec (.beatEnd sample) s = exec (.enterBeat sample) s) ∧
    (s.line.phase = .verdict → exec (.beatEnd sample) s = exec (.frameEnd sample) s) ∧
    (s.line.phase = .followOn → exec (.beatEnd sample) s = exec .followOnBeat s)

/-- R32, R33, R34, R41, R42: at the end of a body beat the winner, which drives its body to the last check beat, records a DRIVE_FAULT for any sample
that differs; a RECEIVER records a FORM_FAULT for a length of 9 to 15 and then counts 8 data bytes. Length and data beats go into
the check, as driven at the winner and as sampled elsewhere; the body ends after 4 + 8n + 16 beats. -/
def Obligations.BodyBeatIsReadByRole : Prop :=
  ∀ (s : State) (sample : Level), s.line.medium = .inFrame → s.line.slb = .dominant → s.line.phase = .body →
    let body := s.contention.body ++ [sample]
    let place := s.contention.body.length
    (s.contention.role = .contender →
      let drive := s.ownBodyBeat place
      let n := s.ownData.length
      exec (.beatEnd sample) s = .next (settle s { s with
        contention := { s.contention with
          body
          check := if place < 4 + 8 * n then checkAfter s.contention.check drive else s.contention.check
          driveFault := s.contention.driveFault || drive != sample }
        errors := { s.errors with driveFault := s.errors.driveFault || drive != sample }
        line := { s.line with
          beatCount := s.line.beatCount + 1, slb := .recessive, sld := drive
          phase := if place + 1 < 4 + 8 * n + 16 then .body else .roundEnd } })) ∧
    (s.contention.role = .receiver →
      let counted := fun beats : List Level => min 8 (beatsValue (beats.take 4))
      let tooLong := place == 3 && decide (8 < beatsValue body)
      exec (.beatEnd sample) s = .next (settle s { s with
        contention := { s.contention with
          body
          check := if place < 4 ∨ place < 4 + 8 * counted s.contention.body then
            checkAfter s.contention.check sample else s.contention.check
          formFault := s.contention.formFault || tooLong }
        errors := { s.errors with formFault := s.errors.formFault || tooLong }
        line := { s.line with
          beatCount := s.line.beatCount + 1, slb := .recessive, sld := .recessive
          phase := if place + 1 < 4 + 8 * counted body + 16 then .body else .roundEnd } }))

/-- R24, R25, R26, R27, R28, R29, R106, R125, R133, R52: the items a station may offer at an enter beat, and the one it offers: the lowest word, and
of equal words the notice that stands first in the posting order. A MUTED station, and one that is not PROVING or JOINED, has no
candidate. The value of each item's word: urgency, kind, key and station number in 4, 2, 11 and 5 places. -/
def Obligations.LowestCandidateIsOffered : Prop :=
  ∀ s : State,
    (Item.hello ∈ s.candidates ↔ s.membership.level ≠ .muted ∧ s.membership.link = .proving ∧
      ∀ w ∈ s.contention.winners, w.own ≠ some .hello) ∧
    (∀ k : LineNo, Item.claim k ∈ s.candidates ↔ s.membership.link = .joined ∧ s.membership.level ≠ .muted ∧
      s.config.lines[k].role = .serve ∧ s.claims.records[k] = .idle ∧ s.dispatch.serveFlags[k] = false ∧
      (∀ e ∈ s.dispatch.inService, e.source ≠ lineDelivery k) ∧ s.image.lines[k].owner = .nobody ∧
      s.line.samples.line[k] = .dominant ∧ s.line.samples.held[k] = .recessive ∧
      ∀ w ∈ s.contention.winners, w.kind = .claim → w.key.toNat ≠ k.val) ∧
    (∀ h : Handle, Item.notice h ∈ s.candidates ↔ s.membership.link = .joined ∧ s.membership.level ≠ .muted ∧
      h ∈ s.sender.posting ∧ ∃ e, s.sender.entries[h] = some e ∧ e.state = .waiting) ∧
    (s.lowestItem s.candidates = none ↔ s.candidates = []) ∧
    (∀ i, s.lowestItem s.candidates = some i →
      i ∈ s.candidates ∧ (∀ j ∈ s.candidates, s.itemWord i ≤ s.itemWord j) ∧
      ∀ g h, i = .notice h → .notice g ∈ s.candidates → s.itemWord (.notice g) = s.itemWord i →
        s.sender.posting.idxOf h ≤ s.sender.posting.idxOf g) ∧
    let n := s.straps.stationNumber.val
    (∀ key, s.membership.helloKey = some key → (s.itemWord .hello).toNat = 2 * 2 ^ 16 + key.toNat * 2 ^ 5 + n) ∧
    (∀ k : LineNo, (s.itemWord (.claim k)).toNat = s.config.lines[k].urgency.toNat * 2 ^ 18 + k.val * 2 ^ 5 + n) ∧
    ∀ (h : Handle) (e : TransmitEntry), s.sender.entries[h] = some e →
      (s.itemWord (.notice h)).toNat = e.urgency.toNat * 2 ^ 18 + 2 ^ 16 + e.tag.toNat * 2 ^ 5 + n

/-- R23, R41, R22, R109, R127: a whole enter beat, and the end of one whose item was offered at its BEAT_START (assumption 11). Sampled dominant, a round begins with
the station as CONTENDER of its offered item or as RECEIVER; sampled recessive, the contention phase ends, and a station that
drove it has a DRIVE_FAULT and its item back, DONE (CANCELLED) if its cancel was requested in the beat. Outside an enter beat
nothing changes (the model's choice, assumption 8).
That an item handed back is no longer the offered item is assumption 28. -/
def Obligations.EnterBeatOpensOrEndsContention : Prop :=
  ∀ s : State, let r := s.settleRound
    (r.line.medium = .inFrame → r.line.phase = .enter → r.line.slb = .recessive → r.TransmitOk →
      let item := r.lowestItem r.candidates
      let drive := if item.isSome then Level.dominant else .recessive
      (∃ o, OfferMade item r o ∧
        exec (.enterBeat .dominant) s = .next (settle s { o with
          contention := { o.contention with
            round := r.contention.round + 1, role := if item.isSome then .contender else .receiver
            word := [], body := [], check := 0xFFFF, driveFault := false, checkFault := false, formFault := false }
          line := { r.line with
            beatCount := r.line.beatCount + 1, slb := .recessive, sld := drive, phase := .word } })) ∧
      exec (.enterBeat .recessive) s = .next (settle s { r with
        contention := { r.contention with offered := none }
        errors := { r.errors with driveFault := r.errors.driveFault || item.isSome }
        line := { r.line with
          beatCount := r.line.beatCount + 1, slb := .recessive, sld := drive, phase := .verdict } })) ∧
    (r.line.medium = .inFrame → r.line.phase = .enter → r.line.slb = .dominant →
      r.line.sld = .dominant ∨ r.contention.offered = none →
      exec (.enterBeat .dominant) s = .next (settle s { r with
        contention := { r.contention with
          round := r.contention.round + 1, role := if r.line.sld = .dominant then .contender else .receiver
          word := [], body := [], check := 0xFFFF, driveFault := false, checkFault := false, formFault := false }
        line := { r.line with beatCount := r.line.beatCount + 1, slb := .recessive, phase := .word } }) ∧
      ∃ (claims : Claims) (sender : Sender), NoticeHandedBack r.contention.offered r.sender sender ∧
        claims.markOwed = r.claims.markOwed ∧
        (∀ k : LineNo, claims.records[k] = if r.contention.offered = some (.claim k) ∧ r.claims.records[k] = .contending
          then .idle else r.claims.records[k]) ∧
        exec (.enterBeat .recessive) s = .next (settle s { r with
          contention := { r.contention with offered := none }
          errors := { r.errors with driveFault := r.errors.driveFault || r.line.sld == .dominant }
          line := { r.line with beatCount := r.line.beatCount + 1, slb := .recessive, phase := .verdict }
          claims, sender })) ∧
    (s.AttnOk → s.line.medium ≠ .inFrame ∨ s.line.phase ≠ .enter ∧ s.line.phase ≠ .roundEnd →
      ∀ sample, exec (.enterBeat sample) s = .next s)

/-- R31, R33, R35, R36, R37, R109, R127: at the end of a round the record of its winner is appended, a check that differs at a RECEIVER of a NOTICE is a
CHECK_FAULT, the owner of the offered item is told won or lost, and the next enter beat or, after four rounds, the verdict beat
follows. The commands that come after a round's end that is still due carry it out first (assumption 12): they start from the
state it leaves.
That the offered item is none from there on is assumption 28. -/
def Obligations.RoundEndAppendsWinnerAndTellsOwner : Prop :=
  ∀ s : State,
    exec .roundEndedWithWinner s = .next (settle s s.settleRound) ∧
    (s.line.medium ≠ .inFrame ∨ s.line.phase ≠ .roundEnd → s.settleRound = s) ∧
    (s.line.medium = .inFrame → s.line.phase = .roundEnd →
      let won := s.contention.role = .contender
      let notice := wordKind s.contention.word = .notice
      let length := beatsValue (s.contention.body.take 4)
      let differs := decide (¬ won ∧ notice ∧ length ≤ 8) &&
        BitVec.ofNat 16 (beatsValue ((s.contention.body.drop (4 + 8 * length)).take 16)) != s.contention.check
      ∃ (w : WinnerRecord) (claims : Claims) (sender : Sender),
        w.round = s.contention.round ∧ w.kind = wordKind s.contention.word ∧ w.urgency = wordUrgency s.contention.word ∧
        w.key = wordKey s.contention.word ∧ w.station = wordStation s.contention.word ∧
        w.own = (if won then s.contention.offered else none) ∧
        (notice → ¬ won → w.length = length ∧
          (length ≤ 8 → w.data = beatsBytes length (s.contention.body.drop 4))) ∧
        (notice → ∀ h e, won → s.contention.offered = some (.notice h) → s.sender.entries[h] = some e →
          w.length = e.data.length ∧ w.data = e.data) ∧
        (w.error = true ↔ s.contention.driveFault = true ∨ s.contention.checkFault = true ∨
          s.contention.formFault = true ∨ differs = true) ∧
        claims.markOwed = s.claims.markOwed ∧
        (∀ k : LineNo, claims.records[k] =
          if s.contention.offered = some (.claim k) ∧ s.claims.records[k] = .contending then
            (if won then .won else .idle) else s.claims.records[k]) ∧
        (¬ won → NoticeHandedBack s.contention.offered s.sender sender) ∧
        (won → sender.posting = s.sender.posting ∧ sender.reports = s.sender.reports ∧
          ∀ h : Handle, sender.entries[h] = s.sender.entries[h].map fun e =>
            if s.contention.offered = some (.notice h) ∧ e.state = .contending then { e with state := .won } else e) ∧
        s.settleRound = { s with
          contention := { s.contention with
            offered := none, checkFault := s.contention.checkFault || differs
            winners := s.contention.winners ++ [w] }
          errors := { s.errors with checkFault := s.errors.checkFault || differs }
          line := { s.line with phase := if s.contention.round < 4 then .enter else .verdict }
          claims, sender })

/-- R25, R29, R34: what a station sends, every reader reads back: the fields of a contention word from its 22 beats, the length of a notice from its 4
beats, its data from 8 beats a byte, and the check from its 16 beats; and the beats a winner drives are these. -/
def Obligations.SentWordAndBodyReadBack : Prop :=
  (∀ (u : Urgency) (k : ItemKind) (key : Tag) (n : StationNo),
    let beats := (List.range 22).map fun i => Level.ofBit ((contentionWord u k key n).getMsbD i)
    wordUrgency beats = u ∧ wordKind beats = k ∧ wordKey beats = key ∧ wordStation beats = n) ∧
  (∀ (s : State) (h : Handle) (e : TransmitEntry), s.contention.offered = some (.notice h) →
    s.sender.entries[h] = some e → e.data.length ≤ 8 →
    let n := e.data.length
    let length := (List.range 4).map s.ownBodyBeat
    let data := (List.range (8 * n)).map fun i => s.ownBodyBeat (4 + i)
    let check := (List.range 16).map fun i => s.ownBodyBeat (4 + 8 * n + i)
    beatsValue length = n ∧ beatsBytes n data = e.data ∧ BitVec.ofNat 16 (beatsValue check) = s.contention.check)

/-! ## The end of a frame (chapters 3 to 9) -/

/-- The state at the end of the verdict beat, with the end of a last round that was still due carried out. -/
def Sys2Proof.Machine.State.AtVerdict (s r : State) : Prop :=
  r = s.settleRound ∧ r.line.medium = .inFrame ∧ r.line.phase = .verdict

/-- R40: the station has detected an error in the frame. -/
def Sys2Proof.Machine.State.FaultSeen (r : State) : Prop :=
  r.errors.driveFault = true ∨ r.errors.checkFault = true ∨ r.errors.formFault = true

/-- R44, R46, R47, R48, R53, R88, R98, R111, R129, R141: a frame sampled dominant at the verdict (VOIDED) or sampled recessive where the station
detected an error (LOCALLY DISCARDED) counts +8, or +1 without an own finding, drops WON claims, settles WON notices, may
withdraw the station, and changes nothing else. Outside the verdict beat nothing changes (the model's choice, assumption 8). -/
def Obligations.UnacceptedFrameEndCountsAndDropsItsWinners : Prop :=
  (∀ (s r : State) (sample : Level), s.AtVerdict r → sample = .dominant ∨ r.FaultSeen →
    ∃ (drive : Level) (claims : Claims) (sender : Sender), VerdictLevel r drive ∧ ClaimsDropped none r.claims claims ∧
      WonEntriesSettled TransmitEntry.afterVoid r.contention.winners r.sender sender ∧
      ∀ tally, (r.FaultSeen → tally = min 255 (r.membership.tally + 8)) →
        (¬ r.FaultSeen → tally = min 255 (r.membership.tally + 1)) →
        let b := { r with
          errors := { r.errors with
            verdictDrive := drive
            driveFault := r.errors.driveFault || (drive == .dominant && sample == .recessive) }
          line := { r.line with beatCount := r.line.beatCount + 1, slb := .recessive, sld := drive, phase := .followOn }
          membership := r.tallied tally
          claims, sender }
        exec (.frameEnd sample) s = .next (settle s
          (if tally = 255 ∧ (r.membership.link = .listening ∨ r.membership.link = .proving ∨
              r.membership.link = .joined ∨ r.membership.link = .leaving) then b.enterWithdrawn else b))) ∧
  ∀ (s : State) (sample : Level), s.AttnOk →
    s.line.medium ≠ .inFrame ∨ s.line.phase ≠ .verdict ∧ s.line.phase ≠ .roundEnd →
    exec (.frameEnd sample) s = .next s

/-- R58, R59, R60, R61, R62, R64, R65, R46 to R48: an accepted frame lowers the tally, advances the accepted-frame number, and moves the link state: in
LISTENING by the own roster slot, in PROVING by the own HELLO and a twin's, in JOINED by a twin's; in LEAVING not at all. A refused
join enters DETACHED (R65, R3, R10, R90, R101, R119, R167). -/
def Obligations.AcceptedFrameMovesTheLinkState : Prop :=
  ∀ (s r : State), s.AtVerdict r → ¬ r.FaultSeen → r.TallyOk →
    ∃ t, exec (.frameEnd .recessive) s = .next t ∧
      t.membership.tally = r.membership.tally - 1 ∧
      t.membership.level = levelAfter r.membership.level (r.membership.tally - 1) ∧
      t.image.frameNumber = r.image.frameNumber + 1 ∧
      let m := r.membership
      let slot := r.line.samples.roster[r.straps.stationNumber]
      let twin := ∃ w ∈ r.contention.winners, w.kind = .hello ∧ w.station = r.straps.stationNumber ∧ m.helloKey ≠ some w.key
      let helloWon := ∃ w ∈ r.contention.winners, w.own = some .hello
      (m.link = .listening → slot = .dominant →
        t.membership.link = .detached ∧ t.membership.lastRefusal = some .numberTaken) ∧
      (m.link = .listening → slot = .recessive → m.listeningCount = 0 →
        t.membership.link = .listening ∧ t.membership.listeningCount = 1) ∧
      (m.link = .listening → slot = .recessive → m.listeningCount = 1 →
        t.membership.link = .proving ∧ t.membership.listeningCount = 2 ∧ ∃ key, t.membership.helloKey = some key ∧
          t.membership.keyGenerator = key) ∧
      (m.link = .proving ∨ m.link = .joined → twin →
        t.membership.link = .detached ∧ t.membership.lastRefusal = some .twin) ∧
      (m.link = .proving → ¬ twin → helloWon → t.membership.link = .joined) ∧
      (m.link = .proving → ¬ twin → ¬ helloWon → t.membership.link = .proving) ∧
      (m.link = .joined → ¬ twin → t.membership.link = .joined) ∧
      (m.link = .leaving → t.membership.link = .leaving) ∧
      (m.link ≠ .listening → t.membership.link ≠ .detached →
        t.membership.listeningCount = m.listeningCount ∧ t.membership.helloKey = m.helloKey) ∧
      (t.membership.link ≠ .detached → t.membership.lastRefusal = m.lastRefusal ∧ t.membership.remembered = m.remembered) ∧
      (t.membership.link ≠ .proving ∨ m.link = .proving → t.membership.keyGenerator = m.keyGenerator) ∧
      (t.membership.link = .detached → m.link ≠ .detached →
        t.line = { r.line with
          medium := .unsynced, phase := .noFrame, beatCount := r.line.beatCount + 1, lastAcceptedPlan := .silent
          followOn := false, sld := .recessive, slb := .recessive
          quietTimer := .stopped, guardTimer := .stopped, keepaliveTimer := .stopped, stuckTimer := .stopped } ∧
        t.membership.listeningCount = 0 ∧ t.membership.helloKey = none ∧ t.membership.remembered = none ∧
        t.membership.rosterBaseline = true ∧ (∀ n : StationNo, t.membership.roster[n] = ⟨false, 0⟩) ∧
        (∀ i : SourceNo, t.sources[i] = ⟨false, false, 0, false, false, r.sources[i].filtered⟩) ∧
        t.image.baseline = true ∧
        (∀ k : LineNo, t.image.lines[k] = ⟨false, false, false, .nobody, false, false, 0⟩ ∧
          t.claims.records[k] = .idle ∧ t.claims.markOwed[k] = false ∧
          t.dispatch.edgeFlags[k] = false ∧ t.dispatch.serveFlags[k] = false) ∧
        t.dispatch.inService = orphanLines r.dispatch.inService)

/-- R46, R51, R70, R71, R76, R113, R119: the events of an accepted frame, all with its number: the LEVEL event, the roster events in order of station
number outside the baseline and with report_peers on, then JOIN_REFUSED and the LINK event of a change; among them in any
place, in order of line number, the ABANDONED events of the hold limit and then those of an entry to DETACHED. -/
def Obligations.AcceptedFrameRecordsItsEvents : Prop :=
  ∀ (s r : State), s.AtVerdict r → ¬ r.FaultSeen → r.TallyOk →
    ∃ t, exec (.frameEnd .recessive) s = .next t ∧
      let level := levelAfter r.membership.level (r.membership.tally - 1)
      let lost := fun n : StationNo => r.membership.roster[n].present && !r.line.samples.roster[n].low &&
        decide (2 ≤ r.membership.roster[n].absentCount)
      let roster := if r.config.station.reportPeers ∧ r.membership.rosterBaseline = false then
        (List.finRange 32).flatMap fun n =>
          if !r.membership.roster[n].present && r.line.samples.roster[n].low then [StationEvent.peerJoined n]
          else if lost n then [StationEvent.peerLost n] else []
        else []
      let refusal := if t.membership.link = .detached ∧ r.membership.link ≠ .detached then
        (t.membership.lastRefusal.map StationEvent.joinRefused).toList else []
      let link := if t.membership.link = r.membership.link then [] else [StationEvent.linkChanged t.membership.link]
      let limit := r.config.station.holdLimit.toNat * 8
      let expired := (List.finRange 48).filter fun k => match r.claims.records[k] with
        | .owned n => decide (limit ≤ n + 1)
        | .won => r.soleClaim k && decide (limit = 0)
        | .idle | .contending | .releasing => false
      let engaged := if t.membership.link = .detached ∧ r.membership.link ≠ .detached then
        (List.finRange 48).filter fun k => match r.claims.records[k] with
          | .owned n => decide (n + 1 < limit)
          | .won => r.soleClaim k && decide (limit ≠ 0)
          | .releasing => r.line.plan.mark[k] == .recessive
          | .idle | .contending => false
        else []
      ∃ before, before = recordedAfter r.membership.events (r.image.frameNumber + 1)
          (if level = r.membership.level then [] else [.levelChanged level]) ∧
        RecordsGroups before t.membership.events (r.image.frameNumber + 1) (roster ++ refusal ++ link)
          ((expired ++ engaged).map .abandoned)

/-- R10, R70, R94, R95, R96, R97: an accepted frame that leaves the station on the line replaces the last accepted plan, updates every roster entry
from its slot and every line record from its slots, its CLAIM and the peers lost, and clears both baseline flags; the contention
state stays, and of the line controller and the error record only what the verdict beat itself changes. -/
def Obligations.AcceptedFrameUpdatesRosterAndImage : Prop :=
  ∀ (s r : State), s.AtVerdict r → ¬ r.FaultSeen → r.TallyOk →
    ∃ t, exec (.frameEnd .recessive) s = .next t ∧
      t.config = r.config ∧ t.straps = r.straps ∧ t.port = r.port ∧ t.pending = r.pending ∧
      (t.membership.link ≠ .detached →
        t.line = { r.line with
          lastAcceptedPlan := r.line.plan, beatCount := r.line.beatCount + 1, slb := .recessive, sld := .recessive
          phase := .followOn } ∧
        t.contention = r.contention ∧ t.errors = { r.errors with verdictDrive := .recessive } ∧
        t.membership.rosterBaseline = false ∧ t.image.baseline = false ∧
        (∀ n : StationNo, t.membership.roster[n] = match r.line.samples.roster[n], r.membership.roster[n] with
          | .dominant, _ => ⟨true, 0⟩
          | .recessive, ⟨false, _⟩ => ⟨false, 0⟩
          | .recessive, ⟨true, c⟩ => if c < 2 then ⟨true, c + 1⟩ else ⟨false, 0⟩) ∧
        ∀ k : LineNo,
          let old := r.image.lines[k]
          let asserted := r.line.samples.line[k] == .dominant
          let held := r.line.samples.held[k] == .dominant
          let decided := match r.contention.winners.find? fun w => w.kind == .claim && w.key.toNat == k.val with
            | some w => Owner.station w.station
            | none => if held then (if old.owner = .nobody then .unknown else old.owner) else .nobody
          let ownerLost := ∃ n : StationNo, decided = .station n ∧ r.membership.roster[n].present = true ∧
            t.membership.roster[n].present = false
          t.image.lines[k] = {
            asserted, held, marked := r.line.samples.mark[k] == .dominant
            owner := t.image.lines[k].owner
            rose := !r.image.baseline && !old.asserted && asserted
            fell := !r.image.baseline && old.asserted && !asserted
            lastChange := if old.asserted = asserted then old.lastChange else r.image.frameNumber + 1 } ∧
          (¬ ownerLost → t.image.lines[k].owner = decided) ∧
          (ownerLost → t.image.lines[k].owner = if held then .unknown else .nobody))

/-- R110, R112, R113, R116, R117, R153, R155, R166: what an accepted frame that leaves the station on the line makes of claims and line deliveries: a sole
won claim is OWNED with its serve flag set, a duplicate falls; an OWNED counter advances and at the hold limit the claim is
abandoned, its flag cleared and its entry orphaned; a carried mark ends RELEASING and the mark-owed flag; a rise on a WATCH EDGE
line sets its edge flag in JOINED. That a claim WON in the
frame of a LEAVING station sets its serve flag is assumption 29. -/
def Obligations.AcceptedFrameSettlesClaims : Prop :=
  ∀ (s r : State), s.AtVerdict r → ¬ r.FaultSeen → r.TallyOk → r.ConfigOk →
    ∃ t, exec (.frameEnd .recessive) s = .next t ∧ (t.membership.link ≠ .detached →
      let sole := fun k : LineNo => ∃ w : WinnerRecord, w.own = some (.claim k) ∧
        (r.contention.winners.filter fun w => w.kind == .claim && w.key.toNat == k.val) = [w]
      let expires := fun k : LineNo => ∃ n, r.claims.records[k] = .owned n ∧ r.config.station.holdLimit.toNat * 8 ≤ n + 1
      (∀ k : LineNo,
        (r.claims.records[k] = .won → sole k → t.claims.records[k] = .owned 0 ∧ t.dispatch.serveFlags[k] = true) ∧
        (r.claims.records[k] = .won → ¬ sole k → t.claims.records[k] = .idle) ∧
        (∀ n, r.claims.records[k] = .owned n → ¬ expires k → t.claims.records[k] = .owned (n + 1)) ∧
        (expires k → t.claims.records[k] = .idle ∧ t.dispatch.serveFlags[k] = false) ∧
        (r.claims.records[k] = .releasing →
          t.claims.records[k] = if r.line.plan.mark[k] = .dominant then .idle else .releasing) ∧
        (r.claims.records[k] = .idle ∨ r.claims.records[k] = .contending →
          t.claims.records[k] = r.claims.records[k]) ∧
        (t.claims.markOwed[k] = true ↔ r.claims.markOwed[k] = true ∧ r.line.plan.mark[k] = .recessive) ∧
        (¬ expires k → ¬ (r.claims.records[k] = .won ∧ sole k) → t.dispatch.serveFlags[k] = r.dispatch.serveFlags[k]) ∧
        (t.dispatch.edgeFlags[k] = true ↔ r.dispatch.edgeFlags[k] = true ∨
          r.membership.link = .joined ∧ r.config.lines[k].role = .watch ∧ r.config.lines[k].trigger = .edge ∧
            t.image.lines[k].rose = true)) ∧
      t.dispatch.masks = r.dispatch.masks ∧ t.dispatch.tokenCounter = r.dispatch.tokenCounter ∧
      t.dispatch.pointers = r.dispatch.pointers ∧
      t.dispatch.inService.length = r.dispatch.inService.length ∧
      ∀ (i : Nat) (e f : ServiceEntry), r.dispatch.inService[i]? = some e → t.dispatch.inService[i]? = some f →
        f = { e with orphaned := f.orphaned } ∧
        (f.orphaned = true ↔ e.orphaned = true ∨
          e.kind = .lineServe ∧ ∃ k : LineNo, e.source = lineDelivery k ∧ expires k))

/-- R83, R86, R87, R88: what an accepted frame that leaves the station on the line makes of the sources: one that did not drive, and a FOLLOW source,
stay; a PULSE source that drove counts the frame and at 0 ends or starts again; an UNTIL_SERVED source that drove is released by a
dominant mark of its line, whoever drove it. -/
def Obligations.AcceptedFrameCountsAndReleasesSources : Prop :=
  ∀ (s r : State), s.AtVerdict r → ¬ r.FaultSeen → r.TallyOk →
    ∃ t, exec (.frameEnd .recessive) s = .next t ∧ (t.membership.link ≠ .detached →
      ∀ i : SourceNo, let c := r.config.sources[i]
        let q := r.sources[i]
        (q.drove = false ∨ c.discipline = .follow → t.sources[i] = q) ∧
        (q.drove = true → c.discipline = .pulse → q.holding = true →
          (2 ≤ q.pulseCount → t.sources[i] = { q with pulseCount := q.pulseCount - 1 }) ∧
          (q.pulseCount = 1 → q.again = false → t.sources[i] = { q with holding := false, pulseCount := 0 }) ∧
          (q.pulseCount = 1 → q.again = true →
            t.sources[i] = { q with again := false, pulseCount := c.pulseFrames.toNat })) ∧
        ∀ k : LineNo, q.drove = true → c.discipline = .untilServed → q.holding = true → c.line = some k →
          (r.line.samples.mark[k] = .recessive → t.sources[i] = q) ∧
          (r.line.samples.mark[k] = .dominant → q.again = false → t.sources[i] = { q with holding := false }) ∧
          (r.line.samples.mark[k] = .dominant → q.again = true → t.sources[i] = { q with again := false }))

/-- R128: a WON entry sent; its cancel-requested flag is cleared. -/
def Sys2Proof.Machine.TransmitEntry.afterSent (e : TransmitEntry) : TransmitEntry :=
  { e with cancelRequested := false, state := .done .sent }

/-- R138: a filter entry matches a notice. -/
def Sys2Proof.Machine.FilterEntry.Matches (f : FilterEntry) (w : WinnerRecord) : Prop :=
  f.enabled = true ∧
  (f.form = .range → f.first ≤ w.key ∧ w.key ≤ f.second) ∧
  (f.form = .pattern → ∀ i, i < 11 → f.second.getLsbD i = true → w.key.getLsbD i = f.first.getLsbD i) ∧
  ∀ n, f.sender = some n → w.station = n

/-- R139: the action of a notice: that of the first entry that matches, else the default. -/
def Sys2Proof.Machine.NoticeAction (c : Configuration) (w : WinnerRecord) (a : FilterAction) : Prop :=
  (∃ i : FilterNo, c.filters[i].Matches w ∧ (∀ j < i, ¬ c.filters[j].Matches w) ∧ a = c.filters[i].action) ∨
  (∀ i : FilterNo, ¬ c.filters[i].Matches w) ∧ a = c.station.defaultAction

/-- R142, R143, R144: a receive queue after a notice is stored in it. -/
def Sys2Proof.Machine.Stored (policy : OverflowPolicy) (frame : Word16) (w : WinnerRecord) (q q' : ReceiveQueue) : Prop :=
  let record : Bool → NoticeRecord := fun gap => ⟨w.key, w.station, w.urgency, w.length, w.data, frame, gap⟩
  (q.records.length < 8 → q' = ⟨q.records ++ [record q.gapPending], q.lost, false⟩) ∧
  (8 ≤ q.records.length → policy = .keepOld → q' = ⟨q.records, min 255 (q.lost + 1), true⟩) ∧
  (8 ≤ q.records.length → policy = .keepNew →
    q' = ⟨q.records.drop 1 ++ [record true], min 255 (q.lost + 1), false⟩)

/-- R139, R140: the receiver after one round winner: a NOTICE that is not the station's own item, or any with hear_own on, goes by its action. -/
def Sys2Proof.Machine.Filtered (c : Configuration) (frame : Word16) (w : WinnerRecord) (q q' : Receiver) : Prop :=
  (w.kind ≠ .notice ∨ w.own ≠ none ∧ c.station.hearOwn = false → q' = q) ∧
  (w.kind = .notice → w.own = none ∨ c.station.hearOwn = true →
    (NoticeAction c w .queueA → q'.queueB = q.queueB ∧ Stored c.station.policyA frame w q.queueA q'.queueA) ∧
    (NoticeAction c w .queueB → q'.queueA = q.queueA ∧ Stored c.station.policyB frame w q.queueB q'.queueB) ∧
    (NoticeAction c w .drop → q' = q))

/-- R128, R131, R134, R138, R139, R140, R142, R143, R144, R145: an accepted frame sends its WON notices, in the order of their rounds, and filters the
NOTICE winners of its list one after the other in round order, with its own number on each record; where it refuses the join,
the WAITING notices are then cancelled in posting order. -/
def Obligations.AcceptedFrameSendsAndStoresNotices : Prop :=
  ∀ (s r : State), s.AtVerdict r → ¬ r.FaultSeen → r.TallyOk →
    ∃ t, exec (.frameEnd .recessive) s = .next t ∧
      (t.membership.link ≠ .detached →
        WonEntriesSettled TransmitEntry.afterSent r.contention.winners r.sender t.sender) ∧
      (t.membership.link = .detached → r.membership.link ≠ .detached → r.contention.offered = none → r.TransmitOk →
        ∃ sent : Sender, WonEntriesSettled TransmitEntry.afterSent r.contention.winners r.sender sent ∧
          (∀ h : Handle, t.sender.entries[h] = sent.entries[h].map fun e =>
            if e.state = .waiting then { e with state := .done .cancelled } else e) ∧
          t.sender.posting = sent.posting.filter (fun h => !entryWaiting sent.entries[h]) ∧
          t.sender.reports = sent.reports ++ sent.posting.filter (fun h => entryWaiting sent.entries[h])) ∧
      ∃ states : List Receiver, states.length = r.contention.winners.length + 1 ∧
        states.head? = some r.receiver ∧ states.getLast? = some t.receiver ∧
        ∀ (i : Nat) (w : WinnerRecord) (q q' : Receiver), r.contention.winners[i]? = some w → states[i]? = some q →
          states[i + 1]? = some q' → Filtered r.config (r.image.frameNumber + 1) w q q'

/-! ## Invariants -/

/-- R22, R49, R55, R69, R73, R77, R78, R90, R92, R124, R125, R131, R142, R160, R161, R170, R174: every step keeps in the range and the order the data
book gives: the tally with its level, the listening count, the roster, the image, the event and receive queues, the in-service
list and its tokens, the transmit list, the configuration, the local port, the source records (with the configuration in range), and the
contention state (with the transmit list in range). -/
def Obligations.StepKeepsRecordsAndListsInRange : Prop :=
  ∀ s t : State, step s = .next t →
    (s.TallyOk → t.TallyOk) ∧ (s.RosterOk → t.RosterOk) ∧ (s.ImageOk → t.ImageOk) ∧ (s.QueuesOk → t.QueuesOk) ∧
    (s.ServiceOk → t.ServiceOk) ∧ (s.TransmitOk → t.TransmitOk) ∧ (s.ConfigOk → t.ConfigOk) ∧
    (s.ListeningOk → t.ListeningOk) ∧ (s.PortOk → t.PortOk) ∧ (s.ConfigOk → s.SourcesOk → t.SourcesOk) ∧
    (s.TransmitOk → s.ContentionOk → t.ContentionOk)

/-- R1, R3, R55, R63, R66: every step keeps the line controller in agreement with the link state: the wires driven in a frame only, idle in DETACHED and
WITHDRAWN, STALLED with the medium and with a remembered state, LEAVING in a frame only. -/
def Obligations.StepKeepsLineInAgreementWithLinkState : Prop :=
  ∀ s t : State, s.LineOk → step s = .next t → t.LineOk

/-- R105, R106, R110, R113, R114, R119, R155, R167: every step keeps claims, flags and service entries of a line consistent: in particular a line never
has a serve flag and a serve entry at once, and a serve entry that is not orphaned stands for an OWNED claim. -/
def Obligations.StepKeepsClaimsAndDeliveriesConsistent : Prop :=
  ∀ s t : State, s.ConfigOk → s.ClaimsOk → step s = .next t → t.ClaimsOk

/-- R158: after every step ATTN is pulled low exactly while a source is presentable and attention is on. -/
def Obligations.AttnIsLowExactlyWhilePresentable : Prop :=
  ∀ s t : State, s.AttnOk → step s = .next t →
    (t.dispatch.attnLow = true ↔ t.config.station.attention = true ∧ ∃ d, t.presentable d = true)
end

