-- ==== Sys2Proof/Laws/State.lean ====
section
/-! SUPPORT. One lemma per field and named update of State: what the update leaves alone, what it writes where that is one
value, and reading a table. -/

namespace Sys2Proof.Machine

open Sys2Proof

/-! ## Tables -/

theorem tableOf_get {α : Type} {n : Nat} (f : Fin n → α) (i : Fin n) : (Table.of f)[i] = f i := by simp [Table.of]

@[simp] theorem tablePut_get {α : Type} {n : Nat} (t : Table α n) (k i : Fin n) (x : α) :
    (t.put k x)[i] = if i = k then x else t[i] := by simp [Table.put, Table.of]

@[simp] theorem tablePut_getNat {α : Type} {n : Nat} (t : Table α n) (k : Fin n) (x : α) (i : Nat) (h : i < n) :
    (t.put k x)[i] = if i = k.val then x else t[i] := by simp [Table.put, Table.of, Fin.ext_iff]

theorem table_ext {α : Type} {n : Nat} {t u : Table α n} (h : ∀ i : Fin n, t[i] = u[i]) : t = u := by
  apply Vector.ext
  intro i hi
  exact h ⟨i, hi⟩

/-! ## The settled state -/

@[simp] theorem complete_eq (s t : State) : complete s t = .next (settle s t) := rfl

@[simp] theorem settle_straps (s t : State) : (settle s t).straps = t.straps := rfl
@[simp] theorem settle_config (s t : State) : (settle s t).config = t.config := rfl
@[simp] theorem settle_line (s t : State) : (settle s t).line = t.line := rfl
@[simp] theorem settle_contention (s t : State) : (settle s t).contention = t.contention := rfl
@[simp] theorem settle_errors (s t : State) : (settle s t).errors = t.errors := rfl
@[simp] theorem settle_membership (s t : State) : (settle s t).membership = t.membership := rfl
@[simp] theorem settle_sources (s t : State) : (settle s t).sources = t.sources := rfl
@[simp] theorem settle_image (s t : State) : (settle s t).image = t.image := rfl
@[simp] theorem settle_claims (s t : State) : (settle s t).claims = t.claims := rfl
@[simp] theorem settle_sender (s t : State) : (settle s t).sender = t.sender := rfl
@[simp] theorem settle_receiver (s t : State) : (settle s t).receiver = t.receiver := rfl
@[simp] theorem settle_port (s t : State) : (settle s t).port = t.port := rfl
@[simp] theorem settle_freeIndex (s t : State) : (settle s t).freeIndex = t.freeIndex := rfl
@[simp] theorem settle_pending (s t : State) : (settle s t).pending = t.pending := rfl
@[simp] theorem settle_masks (s t : State) : (settle s t).dispatch.masks = t.dispatch.masks := rfl
@[simp] theorem settle_edgeFlags (s t : State) : (settle s t).dispatch.edgeFlags = t.dispatch.edgeFlags := rfl
@[simp] theorem settle_serveFlags (s t : State) : (settle s t).dispatch.serveFlags = t.dispatch.serveFlags := rfl
@[simp] theorem settle_inService (s t : State) : (settle s t).dispatch.inService = t.dispatch.inService := rfl
@[simp] theorem settle_tokenCounter (s t : State) : (settle s t).dispatch.tokenCounter = t.dispatch.tokenCounter := rfl
@[simp] theorem settle_pointers (s t : State) : (settle s t).dispatch.pointers = t.dispatch.pointers := rfl
@[simp] theorem settle_attnLow (s t : State) : (settle s t).dispatch.attnLow = t.attentionDue := rfl
@[simp] theorem settle_withdrawn (s t : State) :
    (settle s t).dispatch.withdrawn = (t.dispatch.withdrawn || stoppedPresenting s t) := rfl

/-! ## answer -/

@[simp] theorem answer_straps (s : State) (st : Status) (bs : List Byte) : (s.answer st bs).straps = s.straps := rfl
@[simp] theorem answer_config (s : State) (st : Status) (bs : List Byte) : (s.answer st bs).config = s.config := rfl
@[simp] theorem answer_line (s : State) (st : Status) (bs : List Byte) : (s.answer st bs).line = s.line := rfl
@[simp] theorem answer_contention (s : State) (st : Status) (bs : List Byte) : (s.answer st bs).contention = s.contention := rfl
@[simp] theorem answer_errors (s : State) (st : Status) (bs : List Byte) : (s.answer st bs).errors = s.errors := rfl
@[simp] theorem answer_membership (s : State) (st : Status) (bs : List Byte) : (s.answer st bs).membership = s.membership := rfl
@[simp] theorem answer_sources (s : State) (st : Status) (bs : List Byte) : (s.answer st bs).sources = s.sources := rfl
@[simp] theorem answer_image (s : State) (st : Status) (bs : List Byte) : (s.answer st bs).image = s.image := rfl
@[simp] theorem answer_claims (s : State) (st : Status) (bs : List Byte) : (s.answer st bs).claims = s.claims := rfl
@[simp] theorem answer_sender (s : State) (st : Status) (bs : List Byte) : (s.answer st bs).sender = s.sender := rfl
@[simp] theorem answer_receiver (s : State) (st : Status) (bs : List Byte) : (s.answer st bs).receiver = s.receiver := rfl
@[simp] theorem answer_dispatch (s : State) (st : Status) (bs : List Byte) : (s.answer st bs).dispatch = s.dispatch := rfl
@[simp] theorem answer_freeIndex (s : State) (st : Status) (bs : List Byte) : (s.answer st bs).freeIndex = s.freeIndex := rfl
@[simp] theorem answer_pending (s : State) (st : Status) (bs : List Byte) : (s.answer st bs).pending = s.pending := rfl

/-! ## record -/

@[simp] theorem record_straps (s : State) (e : StationEvent) : (s.record e).straps = s.straps := rfl
@[simp] theorem record_config (s : State) (e : StationEvent) : (s.record e).config = s.config := rfl
@[simp] theorem record_line (s : State) (e : StationEvent) : (s.record e).line = s.line := rfl
@[simp] theorem record_contention (s : State) (e : StationEvent) : (s.record e).contention = s.contention := rfl
@[simp] theorem record_errors (s : State) (e : StationEvent) : (s.record e).errors = s.errors := rfl
@[simp] theorem record_sources (s : State) (e : StationEvent) : (s.record e).sources = s.sources := rfl
@[simp] theorem record_image (s : State) (e : StationEvent) : (s.record e).image = s.image := rfl
@[simp] theorem record_claims (s : State) (e : StationEvent) : (s.record e).claims = s.claims := rfl
@[simp] theorem record_sender (s : State) (e : StationEvent) : (s.record e).sender = s.sender := rfl
@[simp] theorem record_receiver (s : State) (e : StationEvent) : (s.record e).receiver = s.receiver := rfl
@[simp] theorem record_dispatch (s : State) (e : StationEvent) : (s.record e).dispatch = s.dispatch := rfl
@[simp] theorem record_port (s : State) (e : StationEvent) : (s.record e).port = s.port := rfl
@[simp] theorem record_freeIndex (s : State) (e : StationEvent) : (s.record e).freeIndex = s.freeIndex := rfl
@[simp] theorem record_pending (s : State) (e : StationEvent) : (s.record e).pending = s.pending := rfl

/-! ## setLink -/

@[simp] theorem setLink_straps (s : State) (l : LinkState) : (s.setLink l).straps = s.straps := rfl
@[simp] theorem setLink_config (s : State) (l : LinkState) : (s.setLink l).config = s.config := rfl
@[simp] theorem setLink_line (s : State) (l : LinkState) : (s.setLink l).line = s.line := rfl
@[simp] theorem setLink_contention (s : State) (l : LinkState) : (s.setLink l).contention = s.contention := rfl
@[simp] theorem setLink_errors (s : State) (l : LinkState) : (s.setLink l).errors = s.errors := rfl
@[simp] theorem setLink_sources (s : State) (l : LinkState) : (s.setLink l).sources = s.sources := rfl
@[simp] theorem setLink_image (s : State) (l : LinkState) : (s.setLink l).image = s.image := rfl
@[simp] theorem setLink_claims (s : State) (l : LinkState) : (s.setLink l).claims = s.claims := rfl
@[simp] theorem setLink_sender (s : State) (l : LinkState) : (s.setLink l).sender = s.sender := rfl
@[simp] theorem setLink_receiver (s : State) (l : LinkState) : (s.setLink l).receiver = s.receiver := rfl
@[simp] theorem setLink_dispatch (s : State) (l : LinkState) : (s.setLink l).dispatch = s.dispatch := rfl
@[simp] theorem setLink_port (s : State) (l : LinkState) : (s.setLink l).port = s.port := rfl
@[simp] theorem setLink_freeIndex (s : State) (l : LinkState) : (s.setLink l).freeIndex = s.freeIndex := rfl
@[simp] theorem setLink_pending (s : State) (l : LinkState) : (s.setLink l).pending = s.pending := rfl

/-! ## setSource -/

@[simp] theorem setSource_straps (s : State) (i : SourceNo) (r : SourceRun) : (s.setSource i r).straps = s.straps := by
  dsimp only [State.setSource]
@[simp] theorem setSource_config (s : State) (i : SourceNo) (r : SourceRun) : (s.setSource i r).config = s.config := by
  dsimp only [State.setSource]
@[simp] theorem setSource_line (s : State) (i : SourceNo) (r : SourceRun) : (s.setSource i r).line = s.line := by
  dsimp only [State.setSource]
@[simp] theorem setSource_contention (s : State) (i : SourceNo) (r : SourceRun) : (s.setSource i r).contention = s.contention := by
  dsimp only [State.setSource]
@[simp] theorem setSource_errors (s : State) (i : SourceNo) (r : SourceRun) : (s.setSource i r).errors = s.errors := by
  dsimp only [State.setSource]
@[simp] theorem setSource_membership (s : State) (i : SourceNo) (r : SourceRun) : (s.setSource i r).membership = s.membership := by
  dsimp only [State.setSource]
@[simp] theorem setSource_image (s : State) (i : SourceNo) (r : SourceRun) : (s.setSource i r).image = s.image := by
  dsimp only [State.setSource]
@[simp] theorem setSource_claims (s : State) (i : SourceNo) (r : SourceRun) : (s.setSource i r).claims = s.claims := by
  dsimp only [State.setSource]
@[simp] theorem setSource_sender (s : State) (i : SourceNo) (r : SourceRun) : (s.setSource i r).sender = s.sender := by
  dsimp only [State.setSource]
@[simp] theorem setSource_receiver (s : State) (i : SourceNo) (r : SourceRun) : (s.setSource i r).receiver = s.receiver := by
  dsimp only [State.setSource]
@[simp] theorem setSource_dispatch (s : State) (i : SourceNo) (r : SourceRun) : (s.setSource i r).dispatch = s.dispatch := by
  dsimp only [State.setSource]
@[simp] theorem setSource_port (s : State) (i : SourceNo) (r : SourceRun) : (s.setSource i r).port = s.port := by
  dsimp only [State.setSource]
@[simp] theorem setSource_freeIndex (s : State) (i : SourceNo) (r : SourceRun) : (s.setSource i r).freeIndex = s.freeIndex := by
  dsimp only [State.setSource]
@[simp] theorem setSource_pending (s : State) (i : SourceNo) (r : SourceRun) : (s.setSource i r).pending = s.pending := by
  dsimp only [State.setSource]

/-! ## countBeat -/

@[simp] theorem countBeat_straps (s : State) (d : Level) (p : Phase) : (s.countBeat d p).straps = s.straps := rfl
@[simp] theorem countBeat_config (s : State) (d : Level) (p : Phase) : (s.countBeat d p).config = s.config := rfl
@[simp] theorem countBeat_contention (s : State) (d : Level) (p : Phase) : (s.countBeat d p).contention = s.contention := rfl
@[simp] theorem countBeat_errors (s : State) (d : Level) (p : Phase) : (s.countBeat d p).errors = s.errors := rfl
@[simp] theorem countBeat_membership (s : State) (d : Level) (p : Phase) : (s.countBeat d p).membership = s.membership := rfl
@[simp] theorem countBeat_sources (s : State) (d : Level) (p : Phase) : (s.countBeat d p).sources = s.sources := rfl
@[simp] theorem countBeat_image (s : State) (d : Level) (p : Phase) : (s.countBeat d p).image = s.image := rfl
@[simp] theorem countBeat_claims (s : State) (d : Level) (p : Phase) : (s.countBeat d p).claims = s.claims := rfl
@[simp] theorem countBeat_sender (s : State) (d : Level) (p : Phase) : (s.countBeat d p).sender = s.sender := rfl
@[simp] theorem countBeat_receiver (s : State) (d : Level) (p : Phase) : (s.countBeat d p).receiver = s.receiver := rfl
@[simp] theorem countBeat_dispatch (s : State) (d : Level) (p : Phase) : (s.countBeat d p).dispatch = s.dispatch := rfl
@[simp] theorem countBeat_port (s : State) (d : Level) (p : Phase) : (s.countBeat d p).port = s.port := rfl
@[simp] theorem countBeat_freeIndex (s : State) (d : Level) (p : Phase) : (s.countBeat d p).freeIndex = s.freeIndex := rfl
@[simp] theorem countBeat_pending (s : State) (d : Level) (p : Phase) : (s.countBeat d p).pending = s.pending := rfl

/-! ## driveFault -/

@[simp] theorem driveFault_straps (s : State) (b : Bool) : (s.driveFault b).straps = s.straps := rfl
@[simp] theorem driveFault_config (s : State) (b : Bool) : (s.driveFault b).config = s.config := rfl
@[simp] theorem driveFault_line (s : State) (b : Bool) : (s.driveFault b).line = s.line := rfl
@[simp] theorem driveFault_membership (s : State) (b : Bool) : (s.driveFault b).membership = s.membership := rfl
@[simp] theorem driveFault_sources (s : State) (b : Bool) : (s.driveFault b).sources = s.sources := rfl
@[simp] theorem driveFault_image (s : State) (b : Bool) : (s.driveFault b).image = s.image := rfl
@[simp] theorem driveFault_claims (s : State) (b : Bool) : (s.driveFault b).claims = s.claims := rfl
@[simp] theorem driveFault_sender (s : State) (b : Bool) : (s.driveFault b).sender = s.sender := rfl
@[simp] theorem driveFault_receiver (s : State) (b : Bool) : (s.driveFault b).receiver = s.receiver := rfl
@[simp] theorem driveFault_dispatch (s : State) (b : Bool) : (s.driveFault b).dispatch = s.dispatch := rfl
@[simp] theorem driveFault_port (s : State) (b : Bool) : (s.driveFault b).port = s.port := rfl
@[simp] theorem driveFault_freeIndex (s : State) (b : Bool) : (s.driveFault b).freeIndex = s.freeIndex := rfl
@[simp] theorem driveFault_pending (s : State) (b : Bool) : (s.driveFault b).pending = s.pending := rfl

/-! ## formFault -/

@[simp] theorem formFault_straps (s : State) : (s.formFault).straps = s.straps := rfl
@[simp] theorem formFault_config (s : State) : (s.formFault).config = s.config := rfl
@[simp] theorem formFault_line (s : State) : (s.formFault).line = s.line := rfl
@[simp] theorem formFault_membership (s : State) : (s.formFault).membership = s.membership := rfl
@[simp] theorem formFault_sources (s : State) : (s.formFault).sources = s.sources := rfl
@[simp] theorem formFault_image (s : State) : (s.formFault).image = s.image := rfl
@[simp] theorem formFault_claims (s : State) : (s.formFault).claims = s.claims := rfl
@[simp] theorem formFault_sender (s : State) : (s.formFault).sender = s.sender := rfl
@[simp] theorem formFault_receiver (s : State) : (s.formFault).receiver = s.receiver := rfl
@[simp] theorem formFault_dispatch (s : State) : (s.formFault).dispatch = s.dispatch := rfl
@[simp] theorem formFault_port (s : State) : (s.formFault).port = s.port := rfl
@[simp] theorem formFault_freeIndex (s : State) : (s.formFault).freeIndex = s.freeIndex := rfl
@[simp] theorem formFault_pending (s : State) : (s.formFault).pending = s.pending := rfl

/-! ## checkFault -/

@[simp] theorem checkFault_straps (s : State) : (s.checkFault).straps = s.straps := rfl
@[simp] theorem checkFault_config (s : State) : (s.checkFault).config = s.config := rfl
@[simp] theorem checkFault_line (s : State) : (s.checkFault).line = s.line := rfl
@[simp] theorem checkFault_membership (s : State) : (s.checkFault).membership = s.membership := rfl
@[simp] theorem checkFault_sources (s : State) : (s.checkFault).sources = s.sources := rfl
@[simp] theorem checkFault_image (s : State) : (s.checkFault).image = s.image := rfl
@[simp] theorem checkFault_claims (s : State) : (s.checkFault).claims = s.claims := rfl
@[simp] theorem checkFault_sender (s : State) : (s.checkFault).sender = s.sender := rfl
@[simp] theorem checkFault_receiver (s : State) : (s.checkFault).receiver = s.receiver := rfl
@[simp] theorem checkFault_dispatch (s : State) : (s.checkFault).dispatch = s.dispatch := rfl
@[simp] theorem checkFault_port (s : State) : (s.checkFault).port = s.port := rfl
@[simp] theorem checkFault_freeIndex (s : State) : (s.checkFault).freeIndex = s.freeIndex := rfl
@[simp] theorem checkFault_pending (s : State) : (s.checkFault).pending = s.pending := rfl

/-! ## abandonClaim -/

@[simp] theorem abandonClaim_straps (s : State) (k : LineNo) : (s.abandonClaim k).straps = s.straps := by
  dsimp only [State.abandonClaim]
@[simp] theorem abandonClaim_config (s : State) (k : LineNo) : (s.abandonClaim k).config = s.config := by
  dsimp only [State.abandonClaim]
@[simp] theorem abandonClaim_line (s : State) (k : LineNo) : (s.abandonClaim k).line = s.line := by
  dsimp only [State.abandonClaim]
@[simp] theorem abandonClaim_contention (s : State) (k : LineNo) : (s.abandonClaim k).contention = s.contention := by
  dsimp only [State.abandonClaim]
@[simp] theorem abandonClaim_errors (s : State) (k : LineNo) : (s.abandonClaim k).errors = s.errors := by
  dsimp only [State.abandonClaim]
@[simp] theorem abandonClaim_membership (s : State) (k : LineNo) : (s.abandonClaim k).membership = s.membership := by
  dsimp only [State.abandonClaim]
@[simp] theorem abandonClaim_sources (s : State) (k : LineNo) : (s.abandonClaim k).sources = s.sources := by
  dsimp only [State.abandonClaim]
@[simp] theorem abandonClaim_image (s : State) (k : LineNo) : (s.abandonClaim k).image = s.image := by
  dsimp only [State.abandonClaim]
@[simp] theorem abandonClaim_sender (s : State) (k : LineNo) : (s.abandonClaim k).sender = s.sender := by
  dsimp only [State.abandonClaim]
@[simp] theorem abandonClaim_receiver (s : State) (k : LineNo) : (s.abandonClaim k).receiver = s.receiver := by
  dsimp only [State.abandonClaim]
@[simp] theorem abandonClaim_port (s : State) (k : LineNo) : (s.abandonClaim k).port = s.port := by
  dsimp only [State.abandonClaim]
@[simp] theorem abandonClaim_freeIndex (s : State) (k : LineNo) : (s.abandonClaim k).freeIndex = s.freeIndex := by
  dsimp only [State.abandonClaim]
@[simp] theorem abandonClaim_pending (s : State) (k : LineNo) : (s.abandonClaim k).pending = s.pending := by
  dsimp only [State.abandonClaim]

/-! ## unsync -/

@[simp] theorem unsync_straps (s : State) : (s.unsync).straps = s.straps := rfl
@[simp] theorem unsync_config (s : State) : (s.unsync).config = s.config := rfl
@[simp] theorem unsync_contention (s : State) : (s.unsync).contention = s.contention := rfl
@[simp] theorem unsync_errors (s : State) : (s.unsync).errors = s.errors := rfl
@[simp] theorem unsync_membership (s : State) : (s.unsync).membership = s.membership := rfl
@[simp] theorem unsync_sources (s : State) : (s.unsync).sources = s.sources := rfl
@[simp] theorem unsync_image (s : State) : (s.unsync).image = s.image := rfl
@[simp] theorem unsync_claims (s : State) : (s.unsync).claims = s.claims := rfl
@[simp] theorem unsync_sender (s : State) : (s.unsync).sender = s.sender := rfl
@[simp] theorem unsync_receiver (s : State) : (s.unsync).receiver = s.receiver := rfl
@[simp] theorem unsync_dispatch (s : State) : (s.unsync).dispatch = s.dispatch := rfl
@[simp] theorem unsync_port (s : State) : (s.unsync).port = s.port := rfl
@[simp] theorem unsync_freeIndex (s : State) : (s.unsync).freeIndex = s.freeIndex := rfl
@[simp] theorem unsync_pending (s : State) : (s.unsync).pending = s.pending := rfl

/-! ## becomeProving -/

@[simp] theorem becomeProving_straps (s : State) : (s.becomeProving).straps = s.straps := rfl
@[simp] theorem becomeProving_config (s : State) : (s.becomeProving).config = s.config := rfl
@[simp] theorem becomeProving_line (s : State) : (s.becomeProving).line = s.line := rfl
@[simp] theorem becomeProving_contention (s : State) : (s.becomeProving).contention = s.contention := rfl
@[simp] theorem becomeProving_errors (s : State) : (s.becomeProving).errors = s.errors := rfl
@[simp] theorem becomeProving_sources (s : State) : (s.becomeProving).sources = s.sources := rfl
@[simp] theorem becomeProving_image (s : State) : (s.becomeProving).image = s.image := rfl
@[simp] theorem becomeProving_claims (s : State) : (s.becomeProving).claims = s.claims := rfl
@[simp] theorem becomeProving_sender (s : State) : (s.becomeProving).sender = s.sender := rfl
@[simp] theorem becomeProving_receiver (s : State) : (s.becomeProving).receiver = s.receiver := rfl
@[simp] theorem becomeProving_dispatch (s : State) : (s.becomeProving).dispatch = s.dispatch := rfl
@[simp] theorem becomeProving_port (s : State) : (s.becomeProving).port = s.port := rfl
@[simp] theorem becomeProving_pending (s : State) : (s.becomeProving).pending = s.pending := rfl

/-! ## startFrame -/

@[simp] theorem startFrame_straps (s : State) (own : Bool) : (s.startFrame own).straps = s.straps := by
  dsimp only [State.startFrame]
@[simp] theorem startFrame_config (s : State) (own : Bool) : (s.startFrame own).config = s.config := by
  dsimp only [State.startFrame]
@[simp] theorem startFrame_membership (s : State) (own : Bool) : (s.startFrame own).membership = s.membership := by
  dsimp only [State.startFrame]
@[simp] theorem startFrame_image (s : State) (own : Bool) : (s.startFrame own).image = s.image := by
  dsimp only [State.startFrame]
@[simp] theorem startFrame_claims (s : State) (own : Bool) : (s.startFrame own).claims = s.claims := by
  dsimp only [State.startFrame]
@[simp] theorem startFrame_sender (s : State) (own : Bool) : (s.startFrame own).sender = s.sender := by
  dsimp only [State.startFrame]
@[simp] theorem startFrame_receiver (s : State) (own : Bool) : (s.startFrame own).receiver = s.receiver := by
  dsimp only [State.startFrame]
@[simp] theorem startFrame_dispatch (s : State) (own : Bool) : (s.startFrame own).dispatch = s.dispatch := by
  dsimp only [State.startFrame]
@[simp] theorem startFrame_port (s : State) (own : Bool) : (s.startFrame own).port = s.port := by
  dsimp only [State.startFrame]
@[simp] theorem startFrame_freeIndex (s : State) (own : Bool) : (s.startFrame own).freeIndex = s.freeIndex := by
  dsimp only [State.startFrame]
@[simp] theorem startFrame_pending (s : State) (own : Bool) : (s.startFrame own).pending = s.pending := by
  dsimp only [State.startFrame]

/-! ## portPeriod and clockPeriod -/

@[simp] theorem portPeriod_straps (s : State) : s.portPeriod.straps = s.straps := by
  unfold State.portPeriod; split <;> rfl
@[simp] theorem portPeriod_config (s : State) : s.portPeriod.config = s.config := by
  unfold State.portPeriod; split <;> rfl
@[simp] theorem portPeriod_line (s : State) : s.portPeriod.line = s.line := by
  unfold State.portPeriod; split <;> rfl
@[simp] theorem portPeriod_contention (s : State) : s.portPeriod.contention = s.contention := by
  unfold State.portPeriod; split <;> rfl
@[simp] theorem portPeriod_errors (s : State) : s.portPeriod.errors = s.errors := by
  unfold State.portPeriod; split <;> rfl
@[simp] theorem portPeriod_sources (s : State) : s.portPeriod.sources = s.sources := by
  unfold State.portPeriod; split <;> rfl
@[simp] theorem portPeriod_image (s : State) : s.portPeriod.image = s.image := by
  unfold State.portPeriod; split <;> rfl
@[simp] theorem portPeriod_claims (s : State) : s.portPeriod.claims = s.claims := by
  unfold State.portPeriod; split <;> rfl
@[simp] theorem portPeriod_sender (s : State) : s.portPeriod.sender = s.sender := by
  unfold State.portPeriod; split <;> rfl
@[simp] theorem portPeriod_receiver (s : State) : s.portPeriod.receiver = s.receiver := by
  unfold State.portPeriod; split <;> rfl
@[simp] theorem portPeriod_dispatch (s : State) : s.portPeriod.dispatch = s.dispatch := by
  unfold State.portPeriod; split <;> rfl
@[simp] theorem portPeriod_pending (s : State) : s.portPeriod.pending = s.pending := by
  unfold State.portPeriod; split <;> rfl
@[simp] theorem portPeriod_membership (s : State) : s.portPeriod.membership = s.membership := by
  unfold State.portPeriod; split <;> rfl

@[simp] theorem clockPeriod_straps (s : State) : s.clockPeriod.straps = s.straps := portPeriod_straps s
@[simp] theorem clockPeriod_config (s : State) : s.clockPeriod.config = s.config := portPeriod_config s
@[simp] theorem clockPeriod_line (s : State) : s.clockPeriod.line = s.line := portPeriod_line s
@[simp] theorem clockPeriod_contention (s : State) : s.clockPeriod.contention = s.contention := portPeriod_contention s
@[simp] theorem clockPeriod_errors (s : State) : s.clockPeriod.errors = s.errors := portPeriod_errors s
@[simp] theorem clockPeriod_sources (s : State) : s.clockPeriod.sources = s.sources := portPeriod_sources s
@[simp] theorem clockPeriod_image (s : State) : s.clockPeriod.image = s.image := portPeriod_image s
@[simp] theorem clockPeriod_claims (s : State) : s.clockPeriod.claims = s.claims := portPeriod_claims s
@[simp] theorem clockPeriod_sender (s : State) : s.clockPeriod.sender = s.sender := portPeriod_sender s
@[simp] theorem clockPeriod_receiver (s : State) : s.clockPeriod.receiver = s.receiver := portPeriod_receiver s
@[simp] theorem clockPeriod_dispatch (s : State) : s.clockPeriod.dispatch = s.dispatch := portPeriod_dispatch s
@[simp] theorem clockPeriod_pending (s : State) : s.clockPeriod.pending = s.pending := portPeriod_pending s
@[simp] theorem clockPeriod_port (s : State) : s.clockPeriod.port = s.portPeriod.port := rfl
@[simp] theorem clockPeriod_freeIndex (s : State) : s.clockPeriod.freeIndex = s.portPeriod.freeIndex := rfl

/-! ## clearWithdrawn -/

@[simp] theorem clearWithdrawn_straps (s : State) : (s.clearWithdrawn).straps = s.straps := rfl
@[simp] theorem clearWithdrawn_config (s : State) : (s.clearWithdrawn).config = s.config := rfl
@[simp] theorem clearWithdrawn_line (s : State) : (s.clearWithdrawn).line = s.line := rfl
@[simp] theorem clearWithdrawn_contention (s : State) : (s.clearWithdrawn).contention = s.contention := rfl
@[simp] theorem clearWithdrawn_errors (s : State) : (s.clearWithdrawn).errors = s.errors := rfl
@[simp] theorem clearWithdrawn_membership (s : State) : (s.clearWithdrawn).membership = s.membership := rfl
@[simp] theorem clearWithdrawn_sources (s : State) : (s.clearWithdrawn).sources = s.sources := rfl
@[simp] theorem clearWithdrawn_image (s : State) : (s.clearWithdrawn).image = s.image := rfl
@[simp] theorem clearWithdrawn_claims (s : State) : (s.clearWithdrawn).claims = s.claims := rfl
@[simp] theorem clearWithdrawn_sender (s : State) : (s.clearWithdrawn).sender = s.sender := rfl
@[simp] theorem clearWithdrawn_receiver (s : State) : (s.clearWithdrawn).receiver = s.receiver := rfl
@[simp] theorem clearWithdrawn_port (s : State) : (s.clearWithdrawn).port = s.port := rfl
@[simp] theorem clearWithdrawn_freeIndex (s : State) : (s.clearWithdrawn).freeIndex = s.freeIndex := rfl
@[simp] theorem clearWithdrawn_pending (s : State) : (s.clearWithdrawn).pending = s.pending := rfl

/-! ## resetBlocks -/

@[simp] theorem resetBlocks_straps (s : State) : (s.resetBlocks).straps = s.straps := by
  dsimp only [State.resetBlocks]
@[simp] theorem resetBlocks_freeIndex (s : State) : (s.resetBlocks).freeIndex = s.freeIndex := by
  dsimp only [State.resetBlocks]
@[simp] theorem resetBlocks_pending (s : State) : (s.resetBlocks).pending = s.pending := by
  dsimp only [State.resetBlocks]

/-! ## Parts of the membership unit an update leaves alone -/

@[simp] theorem record_membership_link (s : State) (e : StationEvent) :
    (s.record e).membership.link = s.membership.link := rfl
@[simp] theorem record_membership_tally (s : State) (e : StationEvent) :
    (s.record e).membership.tally = s.membership.tally := rfl
@[simp] theorem setLink_membership_tally (s : State) (l : LinkState) :
    (s.setLink l).membership.tally = s.membership.tally := rfl
@[simp] theorem record_membership_level (s : State) (e : StationEvent) :
    (s.record e).membership.level = s.membership.level := rfl
@[simp] theorem setLink_membership_level (s : State) (l : LinkState) :
    (s.setLink l).membership.level = s.membership.level := rfl
@[simp] theorem record_membership_listeningCount (s : State) (e : StationEvent) :
    (s.record e).membership.listeningCount = s.membership.listeningCount := rfl
@[simp] theorem setLink_membership_listeningCount (s : State) (l : LinkState) :
    (s.setLink l).membership.listeningCount = s.membership.listeningCount := rfl
@[simp] theorem record_membership_helloKey (s : State) (e : StationEvent) :
    (s.record e).membership.helloKey = s.membership.helloKey := rfl
@[simp] theorem setLink_membership_helloKey (s : State) (l : LinkState) :
    (s.setLink l).membership.helloKey = s.membership.helloKey := rfl
@[simp] theorem record_membership_keyGenerator (s : State) (e : StationEvent) :
    (s.record e).membership.keyGenerator = s.membership.keyGenerator := rfl
@[simp] theorem setLink_membership_keyGenerator (s : State) (l : LinkState) :
    (s.setLink l).membership.keyGenerator = s.membership.keyGenerator := rfl
@[simp] theorem record_membership_remembered (s : State) (e : StationEvent) :
    (s.record e).membership.remembered = s.membership.remembered := rfl
@[simp] theorem setLink_membership_remembered (s : State) (l : LinkState) :
    (s.setLink l).membership.remembered = s.membership.remembered := rfl
@[simp] theorem record_membership_lastRefusal (s : State) (e : StationEvent) :
    (s.record e).membership.lastRefusal = s.membership.lastRefusal := rfl
@[simp] theorem setLink_membership_lastRefusal (s : State) (l : LinkState) :
    (s.setLink l).membership.lastRefusal = s.membership.lastRefusal := rfl
@[simp] theorem record_membership_roster (s : State) (e : StationEvent) :
    (s.record e).membership.roster = s.membership.roster := rfl
@[simp] theorem setLink_membership_roster (s : State) (l : LinkState) :
    (s.setLink l).membership.roster = s.membership.roster := rfl
@[simp] theorem record_membership_rosterBaseline (s : State) (e : StationEvent) :
    (s.record e).membership.rosterBaseline = s.membership.rosterBaseline := rfl
@[simp] theorem setLink_membership_rosterBaseline (s : State) (l : LinkState) :
    (s.setLink l).membership.rosterBaseline = s.membership.rosterBaseline := rfl
@[simp] theorem setLink_membership_events (s : State) (l : LinkState) :
    (s.setLink l).membership.events = s.membership.events := rfl
@[simp] theorem setLink_membership_link (s : State) (l : LinkState) : (s.setLink l).membership.link = l := rfl
@[simp] theorem record_membership_events (s : State) (e : StationEvent) :
    (s.record e).membership.events = appendEvent s.membership.events ⟨e, s.image.frameNumber, false⟩ := rfl
@[simp] theorem answer_port (s : State) (st : Status) (bs : List Byte) :
    (s.answer st bs).port = ⟨.answering, st.code :: bs, 0, false⟩ := rfl

end Sys2Proof.Machine
end

