-- ==== Sys2Proof/Laws/Ops.lean ====
section
/-! SUPPORT. One lemma for each shared operation, which says what it can do: the settled state, transactions, events, verdict
logic, transmit list, receive queues, tokens. -/

namespace Sys2Proof.Machine

open Sys2Proof

/-! ## Transactions and the settled state -/

theorem openTransaction_eq (s : State) (h : s.port.resetTaken = false) : s.openTransaction = s := by
  simp [State.openTransaction, h]

/-- A command taken with no RESET waiting: its effect, settled. -/
theorem takeCommand_eq (effect : State → State) (s : State) (h : s.port.resetTaken = false) :
    takeCommand effect s = .next (settle s (effect s)) := by
  simp [takeCommand, openTransaction_eq s h]

theorem takeCommand_next (effect : State → State) (s : State) :
    takeCommand effect s = .next (settle s.openTransaction (effect s.openTransaction)) := rfl

/-- What is presentable reads these parts of the state only. -/
theorem presentable_congr {s u : State} (hc : u.config = s.config) (hm : u.dispatch.masks = s.dispatch.masks)
    (hi : u.dispatch.inService = s.dispatch.inService) (he : u.dispatch.edgeFlags = s.dispatch.edgeFlags)
    (hs : u.dispatch.serveFlags = s.dispatch.serveFlags) (hl : u.membership.link = s.membership.link)
    (ha : ∀ k : LineNo, u.image.lines[k].asserted = s.image.lines[k].asserted)
    (hA : u.receiver.queueA.records = s.receiver.queueA.records)
    (hB : u.receiver.queueB.records = s.receiver.queueB.records) (hr : u.sender.reports = s.sender.reports)
    (hev : u.membership.events = s.membership.events) (d : DeliveryNo) : u.presentable d = s.presentable d := by
  have hp : u.sourcePending d = s.sourcePending d := by
    unfold State.sourcePending State.linePending
    split <;> simp only [hc, he, hs, hl, ha, hA, hB, hr, hev]
  have hk : u.rankAllowed d = s.rankAllowed d := by
    unfold State.rankAllowed State.rankOf
    simp only [hc, hi]
  simp only [State.presentable, hp, hk, hm, hi]

theorem presentables_eq {s u : State} (h : ∀ d, u.presentable d = s.presentable d) : u.presentables = s.presentables := by
  unfold State.presentables
  exact List.filter_congr fun d _ => h d

theorem stoppedPresenting_eq_true_iff (s u : State) :
    stoppedPresenting s u = true ↔ ∃ d, s.presentable d = true ∧ u.presentable d = false := by
  simp [stoppedPresenting, State.presentables]

theorem attentionDue_eq_true_iff (s : State) :
    s.attentionDue = true ↔ s.config.station.attention = true ∧ ∃ d, s.presentable d = true := by
  unfold State.attentionDue State.presentables
  simp only [Bool.and_eq_true, Bool.not_eq_true', List.isEmpty_eq_false_iff_exists_mem, List.mem_filter,
    List.mem_finRange, true_and]

/-- A step that leaves presentability as it was settles to itself where ATTN was right. -/
theorem settle_eq_self {s u : State} (hs : s.AttnOk) (hd : u.dispatch = s.dispatch) (hc : u.config = s.config)
    (h : ∀ d, u.presentable d = s.presentable d) : settle s u = u := by
  have h1 : stoppedPresenting s u = false := by
    rw [Bool.eq_false_iff]
    intro hx
    obtain ⟨d, h1, h2⟩ := (stoppedPresenting_eq_true_iff s u).mp hx
    rw [h] at h2
    simp_all
  have h2 : u.attentionDue = u.dispatch.attnLow := by
    unfold State.AttnOk at hs
    rw [hd, hs]
    unfold State.attentionDue
    rw [presentables_eq h, hc]
  simp only [settle, h1, h2, Bool.or_false]

/-- The settled state is as presentable as the state it settles. -/
@[simp] theorem settle_presentable (s u : State) (d : DeliveryNo) : (settle s u).presentable d = u.presentable d := rfl

/-- A next state settled from another shows the withdrawn flag of R159. -/
theorem settle_withdrawn_iff (s u : State) : (settle s u).dispatch.withdrawn = true ↔
    u.dispatch.withdrawn = true ∨ ∃ d, s.presentable d = true ∧ u.presentable d = false := by
  simp [stoppedPresenting_eq_true_iff]

/-- A settled state shows ATTN as R158 gives. -/
theorem settle_attnOk (s u : State) : (settle s u).AttnOk := rfl

/-! ## Events (4.6) -/

theorem markNewestLost_length (q : List EventRecord) : (markNewestLost q).length = q.length := by
  induction q with
  | nil => rfl
  | cons r q ih => cases q with
    | nil => rfl
    | cons r' q => simpa [markNewestLost] using ih

theorem markNewestLost_append (q : List EventRecord) (r : EventRecord) :
    markNewestLost (q ++ [r]) = q ++ [{ r with laterLost := true }] := by
  induction q with
  | nil => rfl
  | cons a q ih => cases q with
    | nil => rfl
    | cons b q => simpa [markNewestLost] using ih

theorem appendEvent_length_le (q : List EventRecord) (r : EventRecord) (h : q.length ≤ 8) :
    (appendEvent q r).length ≤ 8 := by
  unfold appendEvent
  split <;> simp [markNewestLost_length] <;> omega

/-- Events recorded one after the other change the event queue and nothing else. -/
theorem recordAll_eq (s : State) (es : List StationEvent) :
    s.recordAll es = { s with membership := { s.membership with
      events := es.foldl (fun q e => appendEvent q ⟨e, s.image.frameNumber, false⟩) s.membership.events } } := by
  induction es generalizing s with
  | nil => rfl
  | cons e es ih =>
    show (s.record e).recordAll es = _
    rw [ih]
    rfl

theorem recordGroups_eq (s : State) (m c : List StationEvent) :
    s.recordGroups m c = { s with
      freeIndex := s.freeIndex + (m.length + c.length)
      membership := { s.membership with
        events := (interleave Config.eventOrder (m.length + c.length) s.freeIndex m c).foldl
          (fun q e => appendEvent q ⟨e, s.image.frameNumber, false⟩) s.membership.events } } := by
  simp only [State.recordGroups, recordAll_eq]

/-- Merging keeps each list whole and in order, for a choice that tells the two lists' members apart. -/
theorem interleave_filter {α : Type} (p : α → Bool) (first : Nat → Bool) (fuel n : Nat) (xs ys : List α)
    (hx : ∀ x ∈ xs, p x = false) (hy : ∀ y ∈ ys, p y = true) :
    (interleave first fuel n xs ys).filter (!p ·) = xs ∧ (interleave first fuel n xs ys).filter p = ys := by
  have base : ∀ xs ys : List α, (∀ x ∈ xs, p x = false) → (∀ y ∈ ys, p y = true) →
      (xs ++ ys).filter (!p ·) = xs ∧ (xs ++ ys).filter p = ys := by
    intro xs ys hx hy
    constructor
    · rw [List.filter_append, List.filter_eq_self.mpr, List.filter_eq_nil_iff.mpr, List.append_nil]
      · intro y h; simp [hy y h]
      · intro x h; simp [hx x h]
    · rw [List.filter_append, List.filter_eq_nil_iff.mpr, List.filter_eq_self.mpr, List.nil_append]
      · intro y h; simp [hy y h]
      · intro x h; simp [hx x h]
  induction fuel generalizing n xs ys with
  | zero => cases xs <;> cases ys <;> exact base _ _ hx hy
  | succ fuel ih =>
    cases xs with
    | nil => exact base _ _ hx hy
    | cons x xs => cases ys with
      | nil => exact base _ _ hx hy
      | cons y ys =>
        unfold interleave
        split
        · have h := ih (n + 1) xs (y :: ys) (fun a h => hx a (by simp [h])) hy
          have hp := hx x (by simp)
          exact ⟨by simp [hp, h.1], by simp [hp, h.2]⟩
        · have h := ih (n + 1) (x :: xs) ys hx (fun a h => hy a (by simp [h]))
          have hp := hy y (by simp)
          exact ⟨by simp [hp, h.1], by simp [hp, h.2]⟩

/-- An event queue stays within 8 records however many events are recorded. -/
theorem foldl_appendEvent_length_le (es : List StationEvent) (n : Word16) (q : List EventRecord) (h : q.length ≤ 8) :
    (es.foldl (fun q e => appendEvent q ⟨e, n, false⟩) q).length ≤ 8 := by
  induction es generalizing q with
  | nil => exact h
  | cons e es ih => exact ih _ (appendEvent_length_le _ _ h)

/-! ## Verdict logic (chapter 3) -/

theorem tallyRaised_le (t n : Nat) : tallyRaised t n ≤ 255 := Nat.min_le_left _ _

/-- A change of the tally writes tally and level, records a change of level, and nothing else. -/
theorem setTally_eq (s : State) (t : Nat) : s.setTally t = { s with membership := { s.membership with
    tally := t
    level := levelAfter s.membership.level t
    events := if levelAfter s.membership.level t = s.membership.level then s.membership.events
      else appendEvent s.membership.events ⟨.levelChanged (levelAfter s.membership.level t), s.image.frameNumber, false⟩ } } := by
  by_cases h : levelAfter s.membership.level t = s.membership.level <;> simp [State.setTally, State.record, h]

/-- A tally that moves by at most 8 stays in a pair with its level that can stand. -/
theorem levelAfter_inRange (l : FaultLevel) (t t' : Nat) (h : tallyInRange l t = true) (hu : t' ≤ t + 8) (hd : t ≤ t' + 1)
    (hm : t' ≤ 255) : tallyInRange (levelAfter l t') t' = true := by
  cases l <;> simp only [tallyInRange, decide_eq_true_eq] at h <;> unfold levelAfter <;> dsimp only <;>
    split_ifs <;> simp only [tallyInRange, decide_eq_true_eq] <;> omega

/-! ## Receive queues (chapter 9) -/

theorem store_length_le (q : ReceiveQueue) (p : OverflowPolicy) (f : Word16) (w : WinnerRecord) (h : q.records.length ≤ 8) :
    (q.store p f w).records.length ≤ 8 := by
  unfold ReceiveQueue.store
  split
  · simp; omega
  · cases p <;> simp <;> omega

theorem store_lost_le (q : ReceiveQueue) (p : OverflowPolicy) (f : Word16) (w : WinnerRecord) (h : q.lost ≤ 255) :
    (q.store p f w).lost ≤ 255 := by
  unfold ReceiveQueue.store
  split
  · exact h
  · cases p <;> simp

/-! ## LPO (11.2) -/

theorem answerBit_past (p : LocalPort) (i : Nat) (h : 8 * p.response.length ≤ i) : p.answerBit i = false := by
  unfold LocalPort.answerBit
  rw [List.getD_eq_default _ _ (by omega)]
  simp

theorem lpo_released (p : LocalPort) (h : p.phase = .closed) : p.lpo = .released := by simp [LocalPort.lpo, h]

theorem lpo_waiting (p : LocalPort) (h : p.phase = .waiting) : p.lpo = .low := by simp [LocalPort.lpo, h]

theorem lpo_reading (p : LocalPort) (bits : List Bool) (h : p.phase = .reading bits) : p.lpo = .low := by
  simp [LocalPort.lpo, h]

theorem lpo_taken (p : LocalPort) (h : p.phase = .answering) (he : p.edges = 0) : p.lpo = .low := by
  simp [LocalPort.lpo, h, he]

theorem lpo_bit (p : LocalPort) (i : Nat) (h : p.phase = .answering) (he : p.edges = i + 1) :
    p.lpo = if p.answerBit i then .high else .low := by
  simp [LocalPort.lpo, h, he]

/-- A falling edge of LPC changes the count of edges and nothing else. -/
theorem shift_eq (p : LocalPort) : p.shift = { p with
    edges := if p.edges ≤ 8 * p.response.length then p.edges + 1 else p.edges } := by
  unfold LocalPort.shift
  split <;> rfl

theorem readBit_length_le (bits : List Bool) (bit : Bool) (h : bits.length ≤ longestReading) :
    (readBit bits bit).length ≤ longestReading := by
  unfold readBit
  split
  · rw [List.length_append, List.length_singleton]
    omega
  · exact h

/-- An answered command leaves the port in range, whatever stood there. -/
theorem answer_portOk (s : State) (st : Status) (bytes : List Byte) : (s.answer st bytes).PortOk :=
  ⟨fun h => absurd rfl h, fun _ h => PortPhase.noConfusion h, fun _ => ⟨List.cons_ne_nil _ _, Nat.zero_le _⟩⟩

/-- So does the rise of LPS. -/
theorem idle_portOk {s : State} (h : s.port = .idle) : s.PortOk := by
  refine ⟨fun _ => ?_, fun _ e => ?_, fun e => ?_⟩ <;> rw [h] at *
  · exact ⟨rfl, rfl, rfl⟩
  · exact PortPhase.noConfusion e
  · exact PortPhase.noConfusion e

/-- A period at the local port keeps it in range. -/
theorem portPeriod_portOk (s : State) (h : s.PortOk) : s.portPeriod.PortOk := by
  obtain ⟨h1, h2, h3⟩ := h
  unfold State.portPeriod
  split
  · next hp =>
    have := h1 (by rw [hp]; exact PortPhase.noConfusion)
    constructor <;> dsimp only <;> split <;> simp_all
  · next bits hp =>
    have hn := h1 (by rw [hp]; exact PortPhase.noConfusion)
    refine ⟨fun _ => hn, fun b hb => ?_, fun e => PortPhase.noConfusion e⟩
    exact (PortPhase.reading.inj hb) ▸ readBit_length_le bits _ (h2 bits hp)
  · next hp =>
    obtain ⟨hr, he⟩ := h3 hp
    rw [shift_eq]
    refine ⟨fun e => absurd hp e, fun b hb => absurd (hp.symm.trans hb) PortPhase.noConfusion, fun _ => ⟨hr, ?_⟩⟩
    dsimp only
    split <;> omega
  · exact ⟨h1, h2, h3⟩

/-- The port is in range at the end of a pin reset, wherever LPS stands. -/
theorem afterPinReset_portOk {s : State} (low : Bool) (h : s.port = .afterPinReset low) : s.PortOk := by
  cases low <;> refine ⟨fun _ => ?_, fun _ e => ?_, fun e => ?_⟩ <;> rw [h] at *
  · exact ⟨rfl, rfl, rfl⟩
  · exact PortPhase.noConfusion e
  · exact PortPhase.noConfusion e
  · exact ⟨rfl, rfl, rfl⟩
  · exact PortPhase.noConfusion e
  · exact PortPhase.noConfusion e

/-- A period at the local port changes the port and the model's free index, and nothing else. -/
theorem portPeriod_eq (s : State) : s.portPeriod = { s with
    freeIndex := s.portPeriod.freeIndex
    port := s.portPeriod.port } := by
  unfold State.portPeriod
  split <;> rfl

/-! ## Tokens (10.4) -/

theorem nextToken_ne_zero (t : Byte) (h : t ≠ 0) : nextToken t ≠ 0 := by
  revert h
  revert t
  decide

/-- The token given is the first free one, `n` places on in the cycle. -/
theorem freshToken_spec (held : List Byte) (fuel : Nat) (t : Byte) :
    ∃ n, n ≤ fuel ∧ freshToken held fuel t = nextToken^[n] t ∧ (∀ m < n, nextToken^[m] t ∈ held) ∧
      (n < fuel → freshToken held fuel t ∉ held) := by
  induction fuel generalizing t with
  | zero => exact ⟨0, le_refl _, rfl, by simp, by simp⟩
  | succ fuel ih =>
    unfold freshToken
    split
    · next h =>
      obtain ⟨n, hn, he, hm, hf⟩ := ih (nextToken t)
      refine ⟨n + 1, by omega, ?_, ?_, ?_⟩
      · rw [he]; rfl
      · intro m hlt
        cases m with
        | zero => exact h
        | succ m => exact hm m (by omega)
      · intro hlt
        exact hf (by omega)
    · next h => exact ⟨0, by omega, rfl, by simp, fun _ => h⟩

end Sys2Proof.Machine
end

