-- ==== Sys2Proof/Laws/Sender.lean ====
section
/-! SUPPORT. What the transmit list's operations do entry by entry: handing back, sending, voiding, cancelling, one handle at a
time and over a list of handles. -/

namespace Sys2Proof.Machine

open Sys2Proof

/-! ## A settling operation

The four settling operations of a frame's end or an entry to DETACHED have one form: for a handle whose entry is in the state
they look for, the entry is rewritten, and one that becomes DONE leaves the posting order and joins the report order. -/

/-- `op` settles the entries in state `from_` by `f`. -/
structure Settles (op : Sender → Handle → Sender) (from_ : EntryState) (f : TransmitEntry → TransmitEntry) : Prop where
  same : ∀ t h e, t.entries[h] = some e → e.state ≠ from_ → op t h = t
  free : ∀ t h, t.entries[h] = none → op t h = t
  done : ∀ t h e o, t.entries[h] = some e → e.state = from_ → (f e).state = .done o →
    op t h = ⟨t.entries.put h (some (f e)), t.posting.filter (· ≠ h), t.reports ++ [h]⟩
  kept : ∀ t h e, t.entries[h] = some e → e.state = from_ → (∀ o, (f e).state ≠ .done o) →
    op t h = { t with entries := t.entries.put h (some (f e)) }
  leaves : ∀ e, e.state = from_ → (f e).state ≠ from_

/-- Whether an entry's state is DONE. -/
def EntryState.isDone : EntryState → Bool
  | .done _ => true
  | .waiting | .contending | .won => false

theorem settleSent_settles : Settles Sender.settleSent .won
    (fun e => { e with cancelRequested := false, state := .done .sent }) where
  same t h e he hs := by simp only [Sender.settleSent, he, hs, if_false]
  free t h he := by simp only [Sender.settleSent, he]
  done t h e o he hs _ := by simp only [Sender.settleSent, he, hs, if_true, Sender.done]
  kept t h e he hs hn := absurd rfl (hn .sent)
  leaves e _ := by simp

theorem settleVoided_settles : Settles Sender.settleVoided .won (fun e => { e with
    voidCount := e.voidCount + 1
    state := if e.cancelRequested then .done .cancelled else if 8 ≤ e.voidCount + 1 then .done .voidedOut else .waiting }) where
  same t h e he hs := by simp only [Sender.settleVoided, he, hs, if_false]
  free t h he := by simp only [Sender.settleVoided, he]
  done t h e o he hs ho := by
    simp only [Sender.settleVoided, he, hs, if_true]
    by_cases hc : e.cancelRequested <;> by_cases hv : 7 ≤ e.voidCount <;>
      simp_all [Sender.done, TransmitEntry.voidDue]
  kept t h e he hs hn := by
    simp only [Sender.settleVoided, he, hs, if_true]
    by_cases hc : e.cancelRequested <;> by_cases hv : 7 ≤ e.voidCount <;>
      simp_all [Sender.setEntry, TransmitEntry.voidDue]
    rw [if_neg (Nat.not_le.mpr hv), if_neg (Nat.not_le.mpr hv)]
  leaves e _ := by dsimp only; split_ifs <;> simp

theorem settleStuck_settles : Settles Sender.settleStuck .won
    (fun e => { e with state := if e.cancelRequested then .done .cancelled else .waiting }) where
  same t h e he hs := by simp only [Sender.settleStuck, he, hs, if_false]
  free t h he := by simp only [Sender.settleStuck, he]
  done t h e o he hs ho := by
    simp only [Sender.settleStuck, he, hs, if_true]
    by_cases hc : e.cancelRequested <;> simp_all [Sender.done]
  kept t h e he hs hn := by
    simp only [Sender.settleStuck, he, hs, if_true]
    by_cases hc : e.cancelRequested <;> simp_all [Sender.setEntry]
  leaves e _ := by dsimp only; split_ifs <;> simp

theorem cancelWaiting_settles : Settles Sender.cancelWaiting .waiting (fun e => { e with state := .done .cancelled }) where
  same t h e he hs := by simp only [Sender.cancelWaiting, he, hs, if_false]
  free t h he := by simp only [Sender.cancelWaiting, he]
  done t h e o he hs _ := by simp only [Sender.cancelWaiting, he, hs, if_true, Sender.done]
  kept t h e he hs hn := absurd rfl (hn .cancelled)
  leaves e _ := by simp

theorem handBack_settles : Settles Sender.handBack .contending
    (fun e => { e with state := if e.cancelRequested then .done .cancelled else .waiting }) where
  same t h e he hs := by simp only [Sender.handBack, he, hs, if_false]
  free t h he := by simp only [Sender.handBack, he]
  done t h e o he hs ho := by
    simp only [Sender.handBack, he, hs, if_true]
    by_cases hc : e.cancelRequested <;> simp_all [Sender.done]
  kept t h e he hs hn := by
    simp only [Sender.handBack, he, hs, if_true]
    by_cases hc : e.cancelRequested <;> simp_all [Sender.setEntry]
  leaves e _ := by dsimp only; split_ifs <;> simp

/-- Whether a settling operation makes the entry of handle `h` DONE. -/
def settlesDone (from_ : EntryState) (f : TransmitEntry → TransmitEntry) (t : Sender) (h : Handle) : Bool :=
  t.entries[h].any fun e => e.state == from_ && (f e).state.isDone

theorem isDone_eq_true {x : EntryState} : x.isDone = true ↔ ∃ o, x = .done o := by
  cases x <;> simp [EntryState.isDone]

theorem settlesDone_iff {from_ : EntryState} {f : TransmitEntry → TransmitEntry} {t : Sender} {h : Handle} :
    settlesDone from_ f t h = true ↔
      ∃ e o, t.entries[h] = some e ∧ e.state = from_ ∧ (f e).state = .done o := by
  simp [settlesDone, Option.any_eq_true, isDone_eq_true]

variable {op : Sender → Handle → Sender} {from_ : EntryState} {f : TransmitEntry → TransmitEntry}

/-- A settling operation on one handle, entry by entry. -/
theorem Settles.entries (hop : Settles op from_ f) (t : Sender) (g h : Handle) : (op t g).entries[h] =
    if h = g then t.entries[h].map (fun e => if e.state = from_ then f e else e) else t.entries[h] := by
  cases he : t.entries[g] with
  | none =>
    rw [hop.free t g he]
    split
    · next hg => subst hg; rw [he]; rfl
    · rfl
  | some e =>
    by_cases hs : e.state = from_
    · by_cases hd : ∃ o, (f e).state = .done o
      · obtain ⟨o, hd⟩ := hd
        rw [hop.done t g e o he hs hd, tablePut_get]
        split
        · next hg => subst hg; rw [he]; simp [hs]
        · rfl
      · rw [hop.kept t g e he hs (not_exists.mp hd)]
        dsimp only
        rw [tablePut_get]
        split
        · next hg => subst hg; rw [he]; simp [hs]
        · rfl
    · rw [hop.same t g e he hs]
      split
      · next hg => subst hg; rw [he]; simp [hs]
      · rfl

theorem Settles.posting (hop : Settles op from_ f) (t : Sender) (g : Handle) : (op t g).posting =
    if settlesDone from_ f t g then t.posting.filter (· ≠ g) else t.posting := by
  cases he : t.entries[g] with
  | none =>
    rw [hop.free t g he, if_neg]
    simp [settlesDone_iff, -Fin.getElem_fin, he]
  | some e =>
    by_cases hs : e.state = from_
    · by_cases hd : ∃ o, (f e).state = .done o
      · obtain ⟨o, hd⟩ := hd
        rw [hop.done t g e o he hs hd, if_pos (settlesDone_iff.mpr ⟨e, o, he, hs, hd⟩)]
      · rw [hop.kept t g e he hs (not_exists.mp hd), if_neg]
        simp only [settlesDone_iff, he, Option.some.injEq, not_exists, not_and]
        rintro e' o rfl _ h
        exact hd ⟨o, h⟩
    · rw [hop.same t g e he hs, if_neg]
      simp only [settlesDone_iff, he, Option.some.injEq, not_exists, not_and]
      rintro e' o rfl h
      exact absurd h hs

theorem Settles.reports (hop : Settles op from_ f) (t : Sender) (g : Handle) : (op t g).reports =
    if settlesDone from_ f t g then t.reports ++ [g] else t.reports := by
  cases he : t.entries[g] with
  | none =>
    rw [hop.free t g he, if_neg]
    simp [settlesDone_iff, -Fin.getElem_fin, he]
  | some e =>
    by_cases hs : e.state = from_
    · by_cases hd : ∃ o, (f e).state = .done o
      · obtain ⟨o, hd⟩ := hd
        rw [hop.done t g e o he hs hd, if_pos (settlesDone_iff.mpr ⟨e, o, he, hs, hd⟩)]
      · rw [hop.kept t g e he hs (not_exists.mp hd), if_neg]
        simp only [settlesDone_iff, he, Option.some.injEq, not_exists, not_and]
        rintro e' o rfl _ h
        exact hd ⟨o, h⟩
    · rw [hop.same t g e he hs, if_neg]
      simp only [settlesDone_iff, he, Option.some.injEq, not_exists, not_and]
      rintro e' o rfl h
      exact absurd h hs

/-- An entry settled once is not settled again. -/
theorem Settles.settlesDone_after (hop : Settles op from_ f) (t : Sender) (g h : Handle) :
    settlesDone from_ f (op t g) h = (settlesDone from_ f t h && decide (h ≠ g)) := by
  unfold settlesDone
  rw [hop.entries]
  by_cases hg : h = g
  · subst hg
    rw [if_pos rfl]
    cases he : t.entries[h] with
    | none => rfl
    | some e =>
      by_cases hs : e.state = from_
      · simp [hs, hop.leaves e hs]
      · simp [hs]
  · simp [hg]

/-- A settling operation over a list of handles. -/
theorem Settles.foldl (hop : Settles op from_ f) (l : List Handle) (t : Sender) :
    (∀ h : Handle, (l.foldl op t).entries[h] =
      if h ∈ l then t.entries[h].map (fun e => if e.state = from_ then f e else e) else t.entries[h]) ∧
    (l.foldl op t).posting = t.posting.filter (fun h => !(decide (h ∈ l) && settlesDone from_ f t h)) ∧
    (l.foldl op t).reports = t.reports ++ (l.filter (settlesDone from_ f t)).eraseDups := by
  induction l generalizing t with
  | nil => simp
  | cons g l ih =>
    obtain ⟨i1, i2, i3⟩ := ih (op t g)
    simp only [List.foldl_cons]
    refine ⟨?_, ?_, ?_⟩
    · intro h
      rw [i1, hop.entries]
      by_cases hg : h = g
      · subst hg
        by_cases hl : h ∈ l
        · rw [if_pos hl, if_pos rfl, if_pos List.mem_cons_self]
          cases he : t.entries[h] with
          | none => rfl
          | some e =>
            by_cases hs : e.state = from_
            · simp [hs, hop.leaves e hs]
            · simp [hs]
        · rw [if_neg hl, if_pos rfl, if_pos List.mem_cons_self]
      · simp [hg]
    · rw [i2, hop.posting]
      have key : ∀ h : Handle, (decide (h ∈ g :: l) && settlesDone from_ f t h) =
          ((decide (h ∈ l) && settlesDone from_ f (op t g) h) || (decide (h = g) && settlesDone from_ f t h)) := by
        intro h
        rw [hop.settlesDone_after]
        by_cases hg : h = g <;> by_cases hl : h ∈ l <;> simp [hg, hl]
      split
      · next hd =>
        rw [List.filter_filter]
        apply List.filter_congr
        intro h _
        rw [key]
        by_cases hg : h = g
        · subst hg; simp [hd]
        · simp [hg]
      · next hd =>
        apply List.filter_congr
        intro h _
        rw [key]
        by_cases hg : h = g
        · subst hg; simp [hd]
        · simp [hg]
    · rw [i3, hop.reports]
      have key : settlesDone from_ f (op t g) = fun h => (settlesDone from_ f t h && decide (h ≠ g)) :=
        funext fun h => hop.settlesDone_after t g h
      rw [key]
      by_cases hd : settlesDone from_ f t g = true
      · rw [if_pos hd, List.filter_cons, if_pos hd, List.eraseDups_cons, List.filter_filter]
        simp only [List.append_assoc, List.singleton_append]
        congr 4
        funext h
        by_cases hg : h = g <;> simp [hg]
      · rw [if_neg hd, List.filter_cons, if_neg hd]
        congr 3
        funext h
        by_cases hg : h = g
        · subst hg; simp [hd]
        · simp [hg]

theorem eraseDups_of_nodup {α : Type} [DecidableEq α] {l : List α} (h : l.Nodup) : l.eraseDups = l := by
  induction l with
  | nil => rfl
  | cons a l ih =>
    obtain ⟨ha, hl⟩ := List.nodup_cons.mp h
    rw [List.eraseDups_cons, List.filter_eq_self.mpr, ih hl]
    intro b hb
    simpa using fun e : b = a => ha (e ▸ hb)

theorem settlesDone_waiting (t : Sender) (h : Handle) :
    settlesDone .waiting (fun e => { e with state := .done .cancelled }) t h = entryWaiting t.entries[h] := by
  unfold settlesDone
  cases t.entries[h] with
  | none => rfl
  | some e => simp [entryWaiting, EntryState.isDone]

/-- R134: every WAITING entry in the posting order becomes DONE (CANCELLED), in that order. -/
theorem cancelAll_spec (t : Sender) (hn : t.posting.Nodup) :
    (∀ h : Handle, t.cancelAll.entries[h] = if h ∈ t.posting then
      t.entries[h].map (fun e => if e.state = .waiting then { e with state := .done .cancelled } else e)
      else t.entries[h]) ∧
    t.cancelAll.posting = t.posting.filter (fun h => !entryWaiting t.entries[h]) ∧
    t.cancelAll.reports = t.reports ++ t.posting.filter (fun h => entryWaiting t.entries[h]) := by
  obtain ⟨h1, h2, h3⟩ := cancelWaiting_settles.foldl t.posting t
  refine ⟨h1, ?_, ?_⟩
  · rw [Sender.cancelAll, h2]
    apply List.filter_congr
    intro h hh
    simp only [hh, decide_true, Bool.true_and, settlesDone_waiting]
  · rw [Sender.cancelAll, h3, eraseDups_of_nodup (hn.filter _)]
    exact congrArg _ (List.filter_congr fun h _ => settlesDone_waiting t h)

/-- Every handle is in the settling order. -/
theorem mem_roundOrder (ws : List WinnerRecord) (h : Handle) : h ∈ roundOrder ws := by
  simp [roundOrder]

end Sys2Proof.Machine
end

