-- ==== Sys2Proof/Laws/Blocks.lean ====
section
/-! SUPPORT. What the operations of a frame, and the entries to DETACHED and WITHDRAWN, leave alone; and each of them as one
record update. -/

namespace Sys2Proof.Machine

open Sys2Proof

/-- The parts of the state that no event at the wires touches. -/
structure KeepsFixed (s u : State) : Prop where
  straps : u.straps = s.straps
  config : u.config = s.config
  port : u.port = s.port
  pending : u.pending = s.pending
  masks : u.dispatch.masks = s.dispatch.masks
  tokenCounter : u.dispatch.tokenCounter = s.dispatch.tokenCounter
  pointers : u.dispatch.pointers = s.dispatch.pointers
  withdrawn : u.dispatch.withdrawn = s.dispatch.withdrawn
  attnLow : u.dispatch.attnLow = s.dispatch.attnLow
  /-- Entries in service may be orphaned and nothing else. -/
  tokens : u.dispatch.inService.map (fun e => (e.token, e.source, e.kind, e.rank)) =
    s.dispatch.inService.map (fun e => (e.token, e.source, e.kind, e.rank))

theorem KeepsFixed.refl (s : State) : KeepsFixed s s := ⟨rfl, rfl, rfl, rfl, rfl, rfl, rfl, rfl, rfl, rfl⟩

theorem KeepsFixed.trans {s t u : State} (h : KeepsFixed s t) (k : KeepsFixed t u) : KeepsFixed s u :=
  ⟨k.straps.trans h.straps, k.config.trans h.config, k.port.trans h.port, k.pending.trans h.pending,
    k.masks.trans h.masks, k.tokenCounter.trans h.tokenCounter, k.pointers.trans h.pointers,
    k.withdrawn.trans h.withdrawn, k.attnLow.trans h.attnLow, k.tokens.trans h.tokens⟩

/-- An update that leaves configuration, straps, port, queue and dispatch as they are. -/
theorem KeepsFixed.of_dispatch {s u : State} (h1 : u.straps = s.straps) (h2 : u.config = s.config) (h3 : u.port = s.port)
    (h4 : u.pending = s.pending) (h5 : u.dispatch = s.dispatch) : KeepsFixed s u :=
  ⟨h1, h2, h3, h4, by rw [h5], by rw [h5], by rw [h5], by rw [h5], by rw [h5], by rw [h5]⟩

theorem KeepsFixed.ite {s u v : State} {c : Prop} [Decidable c] (hu : c → KeepsFixed s u) (hv : ¬ c → KeepsFixed s v) :
    KeepsFixed s (if c then u else v) := by
  split
  · next h => exact hu h
  · next h => exact hv h

theorem keeps_record (s : State) (e : StationEvent) : KeepsFixed s (s.record e) := .of_dispatch rfl rfl rfl rfl rfl

theorem keeps_changeLink (s : State) (l : LinkState) : KeepsFixed s (s.changeLink l) := .of_dispatch rfl rfl rfl rfl rfl

theorem keeps_recordGroups (s : State) (m c : List StationEvent) : KeepsFixed s (s.recordGroups m c) := by
  rw [recordGroups_eq]
  exact .of_dispatch rfl rfl rfl rfl rfl

theorem keeps_setTally (s : State) (t : Nat) : KeepsFixed s (s.setTally t) := by
  rw [setTally_eq]
  exact .of_dispatch rfl rfl rfl rfl rfl

/-! ## The offered item handed back -/

/-- R36, R38: handing back clears the offered item and changes the one record it names. -/
theorem handBackOffered_eq (s : State) : s.handBackOffered = { s with
    contention := { s.contention with offered := none }
    claims := match s.contention.offered with
      | some (.claim k) => s.claims.handBack k
      | some .hello => s.claims
      | some (.notice _) => s.claims
      | none => s.claims
    sender := match s.contention.offered with
      | some (.notice h) => s.sender.handBack h
      | some .hello => s.sender
      | some (.claim _) => s.sender
      | none => s.sender } := by
  unfold State.handBackOffered
  split
  · next h =>
    have : { s.contention with offered := none } = s.contention := by rw [← h]
    rw [this, h]
  all_goals simp_all

theorem keeps_handBackOffered (s : State) : KeepsFixed s s.handBackOffered := by
  rw [handBackOffered_eq]
  exact .of_dispatch rfl rfl rfl rfl rfl

/-! ## The entries to DETACHED and WITHDRAWN -/

theorem keeps_detach {s u : State} (h1 : u.straps = s.straps) (h2 : u.config = s.config) (h3 : u.port = s.port)
    (h4 : u.pending = s.pending) (h5 : u.dispatch = s.dispatch.detach) : KeepsFixed s u := by
  refine ⟨h1, h2, h3, h4, by rw [h5]; rfl, by rw [h5]; rfl, by rw [h5]; rfl, by rw [h5]; rfl, by rw [h5]; rfl, ?_⟩
  rw [h5]
  simp only [Dispatch.detach, List.map_map]
  apply List.map_congr_left
  intro e _
  cases h : e.kind <;> simp [h, DeliveryKind.ofLine]

/-- R65: the entry to DETACHED as one update: the blocks emptied, and the LINK event recorded with the ABANDONED events. -/
theorem enterDetached_eq (s : State) : s.enterDetached = { s.detachBlocks with
    freeIndex := s.freeIndex + (1 + s.abandonEvents.length)
    membership := { s.detachBlocks.membership with
      events := (interleave Config.eventOrder (1 + s.abandonEvents.length) s.freeIndex [.linkChanged .detached]
        s.abandonEvents).foldl (fun q e => appendEvent q ⟨e, s.image.frameNumber, false⟩) s.membership.events } } := by
  unfold State.enterDetached
  rw [recordGroups_eq]
  have h1 : s.detachBlocks.freeIndex = s.freeIndex := by simp [State.detachBlocks, handBackOffered_eq]
  have h2 : s.detachBlocks.image.frameNumber = s.image.frameNumber := by
    simp [State.detachBlocks, handBackOffered_eq, Image.emptied]
  have h3 : s.detachBlocks.membership.events = s.membership.events := by
    simp [State.detachBlocks, handBackOffered_eq, Membership.emptyRoster]
  rw [h1, h2, h3]
  rfl

/-- R53: the entry to WITHDRAWN as one update. -/
theorem enterWithdrawn_eq (s : State) : s.enterWithdrawn = { s.withdrawBlocks with
    freeIndex := s.freeIndex + (1 + s.abandonEvents.length)
    membership := { s.withdrawBlocks.membership with
      events := (interleave Config.eventOrder (1 + s.abandonEvents.length) s.freeIndex [.linkChanged .withdrawn]
        s.abandonEvents).foldl (fun q e => appendEvent q ⟨e, s.image.frameNumber, false⟩) s.membership.events } } := by
  unfold State.enterWithdrawn
  rw [recordGroups_eq]
  have h1 : s.withdrawBlocks.freeIndex = s.freeIndex := by simp [State.withdrawBlocks, handBackOffered_eq]
  have h2 : s.withdrawBlocks.image.frameNumber = s.image.frameNumber := by
    simp [State.withdrawBlocks, handBackOffered_eq]
  have h3 : s.withdrawBlocks.membership.events = s.membership.events := by
    simp [State.withdrawBlocks, handBackOffered_eq]
  rw [h1, h2, h3]
  rfl

theorem keeps_enterDetached (s : State) : KeepsFixed s s.enterDetached := by
  rw [enterDetached_eq]
  apply keeps_detach <;> simp [State.detachBlocks, handBackOffered_eq]

theorem keeps_enterWithdrawn (s : State) : KeepsFixed s s.enterWithdrawn := by
  rw [enterWithdrawn_eq]
  apply keeps_detach <;> simp [State.withdrawBlocks, handBackOffered_eq]

theorem keeps_withdrawIfDue (s : State) : KeepsFixed s s.withdrawIfDue := by
  unfold State.withdrawIfDue
  exact .ite (fun _ => keeps_enterWithdrawn s) (fun _ => .refl s)

/-! ## Rounds and frames -/

theorem keeps_startFrame (s : State) (own : Bool) : KeepsFixed s (s.startFrame own) := .of_dispatch rfl rfl rfl rfl rfl

theorem keeps_unsync (s : State) : KeepsFixed s s.unsync := .of_dispatch rfl rfl rfl rfl rfl

theorem keeps_countBeat (s : State) (d : Level) (p : Phase) : KeepsFixed s (s.countBeat d p) :=
  .of_dispatch rfl rfl rfl rfl rfl

theorem keeps_driveFault (s : State) (b : Bool) : KeepsFixed s (s.driveFault b) := .of_dispatch rfl rfl rfl rfl rfl

theorem keeps_formFault (s : State) : KeepsFixed s s.formFault := .of_dispatch rfl rfl rfl rfl rfl

theorem keeps_checkFault (s : State) : KeepsFixed s s.checkFault := .of_dispatch rfl rfl rfl rfl rfl

theorem keeps_tellWon (s : State) : KeepsFixed s s.tellWon := by
  unfold State.tellWon
  split <;> exact .of_dispatch rfl rfl rfl rfl rfl

theorem keeps_endRound (s : State) : KeepsFixed s s.endRound := by
  have h1 : KeepsFixed s (if s.checkDiffers then s.checkFault else s) :=
    .ite (fun _ => keeps_checkFault s) (fun _ => .refl s)
  have h2 : ∀ u : State, KeepsFixed u (if u.contention.role = .contender then u.tellWon else u.handBackOffered) :=
    fun u => .ite (fun _ => keeps_tellWon u) (fun _ => keeps_handBackOffered u)
  exact h1.trans ((h2 _).trans (.of_dispatch rfl rfl rfl rfl rfl))

theorem keeps_settleRound (s : State) : KeepsFixed s s.settleRound := by
  unfold State.settleRound
  exact .ite (fun _ => keeps_endRound s) (fun _ => .refl s)

theorem keeps_offer (s : State) (i : Option Item) : KeepsFixed s (s.offer i) := by
  unfold State.offer
  split <;> exact .of_dispatch rfl rfl rfl rfl rfl

theorem keeps_enterSampled (s : State) (drove : Bool) (sample : Level) : KeepsFixed s (s.enterSampled drove sample) := by
  cases sample with
  | dominant => exact .of_dispatch rfl rfl rfl rfl rfl
  | recessive =>
    have h : KeepsFixed s (if drove then (s.driveFault false).handBackOffered else s) :=
      .ite (fun _ => (keeps_driveFault s false).trans (keeps_handBackOffered _)) (fun _ => .refl s)
    exact h.trans (keeps_countBeat _ _ _)

theorem keeps_enterFall (s : State) : KeepsFixed s s.enterFall :=
  (keeps_offer s _).trans (.of_dispatch rfl rfl rfl rfl rfl)

theorem keeps_enterStep (s : State) (sample : Level) : KeepsFixed s (s.enterStep sample) := by
  unfold State.enterStep
  dsimp only
  exact KeepsFixed.trans (.ite (fun _ => .refl s) (fun _ => keeps_enterFall s)) (keeps_enterSampled _ _ _)

theorem keeps_slotEnd (s : State) (sample : Level) : KeepsFixed s (s.slotEnd sample) := by
  unfold State.slotEnd
  dsimp only
  split <;> exact .of_dispatch rfl rfl rfl rfl rfl

theorem keeps_wordEnd (s : State) (sample : Level) : KeepsFixed s (s.wordEnd sample) := by
  unfold State.wordEnd
  dsimp only
  split_ifs <;> exact .of_dispatch rfl rfl rfl rfl rfl

theorem keeps_bodyEnd (s : State) (sample : Level) : KeepsFixed s (s.bodyEnd sample) := by
  unfold State.bodyEnd
  dsimp only
  split_ifs <;> exact .of_dispatch rfl rfl rfl rfl rfl

theorem keeps_dropFrame (s : State) : KeepsFixed s s.dropFrame := by
  unfold State.dropFrame
  apply KeepsFixed.of_dispatch <;> rfl

theorem keeps_dropStuck (s : State) : KeepsFixed s s.dropStuck := by
  unfold State.dropStuck
  apply KeepsFixed.of_dispatch <;> rfl

theorem keeps_breakFrame (s : State) : KeepsFixed s s.breakFrame := by
  unfold State.breakFrame
  dsimp only
  refine .ite (fun _ => .trans ?_ (keeps_enterDetached _)) (fun _ => .trans ?_ (keeps_withdrawIfDue _))
  all_goals
    refine .trans (.trans (.trans ?_ (keeps_setTally _ _)) (keeps_dropFrame _)) (keeps_handBackOffered _)
    exact .of_dispatch rfl rfl rfl rfl rfl

theorem keeps_abandonClaim (s : State) (k : LineNo) : KeepsFixed s (s.abandonClaim k) := by
  unfold State.abandonClaim Dispatch.abandon
  refine ⟨rfl, rfl, rfl, rfl, rfl, rfl, rfl, rfl, rfl, ?_⟩
  simp only [List.map_map]
  apply List.map_congr_left
  intro e _
  simp only [Function.comp_apply]
  split <;> rfl

theorem keeps_abandonAll (s : State) (l : List LineNo) : KeepsFixed s (l.foldl State.abandonClaim s) := by
  induction l generalizing s with
  | nil => exact .refl s
  | cons k l ih =>
    rw [List.foldl_cons]
    exact (keeps_abandonClaim s k).trans (ih (s.abandonClaim k))

theorem keeps_acceptBlocks (s : State) : KeepsFixed s s.acceptBlocks := by
  unfold State.acceptBlocks
  constructor <;> rfl

theorem keeps_becomeProving (s : State) : KeepsFixed s s.becomeProving := .of_dispatch rfl rfl rfl rfl rfl

theorem keeps_detachBlocks (s : State) : KeepsFixed s s.detachBlocks := by
  apply keeps_detach <;> simp [State.detachBlocks, handBackOffered_eq]

theorem keeps_applyLink (s : State) (v : LinkVerdict) (m c : List StationEvent) : KeepsFixed s (s.applyLink v m c) := by
  cases v with
  | stays => exact keeps_recordGroups s m c
  | counts =>
    refine .trans (t := { s with membership := { s.membership with listeningCount := s.membership.listeningCount + 1 } })
      (.of_dispatch rfl rfl rfl rfl rfl) ?_
    exact .ite (fun _ => (keeps_becomeProving _).trans (keeps_recordGroups _ _ _)) (fun _ => keeps_recordGroups _ _ _)
  | joins => exact .trans (t := s.setLink .joined) (.of_dispatch rfl rfl rfl rfl rfl) (keeps_recordGroups _ _ _)
  | refused r =>
    exact .trans (t := { s with membership := { s.membership with lastRefusal := some r } })
      (.of_dispatch rfl rfl rfl rfl rfl) ((keeps_detachBlocks _).trans (keeps_recordGroups _ _ _))

theorem keeps_acceptFrame (s : State) : KeepsFixed s s.acceptFrame :=
  (keeps_acceptBlocks s).trans ((keeps_abandonAll _ _).trans (keeps_applyLink _ _ _ _))

theorem keeps_settleVerdict (s : State) (o : FrameOutcome) (d : Bool) : KeepsFixed s (s.settleVerdict o d) := by
  unfold State.settleVerdict
  refine .trans ?_ (keeps_setTally _ _)
  exact .ite (fun _ => .of_dispatch rfl rfl rfl rfl rfl) (fun _ => .refl s)

theorem keeps_applyFrame (s : State) (o : FrameOutcome) : KeepsFixed s (s.applyFrame o) := by
  cases o with
  | accepted => exact keeps_acceptFrame s
  | voided => exact keeps_dropFrame s
  | locallyDiscarded => exact keeps_dropFrame s

theorem keeps_frameEndStep (s : State) (sample : Level) : KeepsFixed s (s.frameEndStep sample) := by
  unfold State.frameEndStep
  dsimp only
  refine .trans (.trans (.trans ?_ (keeps_settleVerdict _ _ _)) (keeps_applyFrame _ _)) (keeps_withdrawIfDue _)
  exact .of_dispatch rfl rfl rfl rfl rfl

theorem keeps_stall (s : State) : KeepsFixed s s.stall := by
  unfold State.stall
  dsimp only
  refine .trans (t := ?_) ?_ ?_
  · exact { s.dropStuck.handBackOffered with line := { s.dropStuck.handBackOffered.line with
      medium := .stalled, phase := .noFrame, followOn := false, sld := .recessive, slb := .recessive
      quietTimer := .running, guardTimer := .stopped, stuckTimer := .stopped } }
  · exact ((keeps_dropStuck s).trans (keeps_handBackOffered _)).trans (.of_dispatch rfl rfl rfl rfl rfl)
  · split
    · exact .of_dispatch rfl rfl rfl rfl rfl
    · exact .ite (fun _ => keeps_enterDetached _) (fun _ => .refl _)

end Sys2Proof.Machine
end

