-- ==== Sys2Proof/Laws/Exec.lean ====
section
/-! SUPPORT. The form of every command's next state: an effect, settled. -/

namespace Sys2Proof.Machine

open Sys2Proof

/-- An event at the wires, at the pins or of a count answers a settled next state that keeps the fixed parts. -/
def WireForm (c : Instr) (s : State) : Prop := ∃ u, exec c s = .next (settle s u) ∧ KeepsFixed s u

theorem wireForm_ite {c : Instr} {s u : State} {p : Prop} [Decidable p]
    (h : exec c s = .next (settle s (if p then u else s))) (hu : KeepsFixed s u) : WireForm c s :=
  ⟨_, h, .ite (fun _ => hu) (fun _ => .refl s)⟩

theorem keeps_setSource (s : State) (i : SourceNo) (r : SourceRun) : KeepsFixed s (s.setSource i r) :=
  .of_dispatch (setSource_straps s i r) (setSource_config s i r) (setSource_port s i r) (setSource_pending s i r)
    (setSource_dispatch s i r)

theorem keeps_takeEdge (s : State) (i : SourceNo) : KeepsFixed s (s.takeEdge i) := by
  unfold State.takeEdge
  exact .ite (fun _ => keeps_setSource s i _) (fun _ => .refl s)

theorem keeps_pinSettles (s : State) (p : PinNo) (l : PinLevel) : KeepsFixed s (s.pinSettles p l) := by
  unfold State.pinSettles
  dsimp only
  exact .ite (fun _ => .trans (keeps_setSource _ _ _) (keeps_takeEdge _ _)) (fun _ => keeps_setSource _ _ _)

theorem keeps_becomeQuiet (s : State) : KeepsFixed s s.becomeQuiet := by
  unfold State.becomeQuiet
  dsimp only
  refine .ite (fun _ => ?_) (fun _ => .of_dispatch rfl rfl rfl rfl rfl)
  unfold State.stallReturn
  split <;> exact .of_dispatch rfl rfl rfl rfl rfl

theorem keeps_frameClosed (s : State) : KeepsFixed s s.frameClosed := by
  unfold State.frameClosed
  dsimp only
  refine .ite (fun _ => .trans ?_ (keeps_enterDetached _)) (fun _ => ?_)
  all_goals exact .of_dispatch rfl rfl rfl rfl rfl

theorem keeps_losePeer (s : State) (n : StationNo) : KeepsFixed s (s.losePeer n) := by
  unfold State.losePeer
  dsimp only
  refine .ite (fun _ => .trans ?_ (keeps_record _ _)) (fun _ => ?_)
  all_goals exact .of_dispatch rfl rfl rfl rfl rfl

theorem keeps_fallSlb (s : State) : KeepsFixed s s.fallSlb := by
  unfold State.fallSlb
  refine .ite (fun _ => keeps_enterFall s) (fun _ => .ite (fun _ => ?_) (fun _ => ?_))
  all_goals exact .of_dispatch rfl rfl rfl rfl rfl

theorem keeps_followOnStep (s : State) : KeepsFixed s s.followOnStep := by
  unfold State.followOnStep
  dsimp only
  refine KeepsFixed.trans (.ite (fun _ => .refl s) (fun _ => ?_)) (keeps_countBeat _ _ _)
  exact .of_dispatch rfl rfl rfl rfl rfl

theorem keeps_riseSlb (s : State) (sample : Level) : KeepsFixed s (s.riseSlb sample) := by
  unfold State.riseSlb
  split
  · exact keeps_slotEnd s sample
  · exact keeps_enterStep s sample
  · exact keeps_wordEnd s sample
  · exact keeps_bodyEnd s sample
  · exact keeps_frameEndStep s sample
  · exact keeps_followOnStep s
  · exact keeps_countBeat s _ _
  · exact .refl s
  · exact .refl s
  · exact .refl s

theorem keeps_brokenByStart (s : State) :
    KeepsFixed s (if s.settleRound.breakFrame.membership.link.mayStart then s.settleRound.breakFrame.startFrame false
      else s.settleRound.breakFrame) := by
  have h := (keeps_settleRound s).trans (keeps_breakFrame _)
  exact .ite (fun _ => h.trans (keeps_startFrame _ _)) (fun _ => h)

theorem keeps_brokenByStop (s : State) :
    KeepsFixed s (if s.settleRound.breakFrame.membership.link.mayStart then s.settleRound.breakFrame.unsync
      else s.settleRound.breakFrame) := by
  have h := (keeps_settleRound s).trans (keeps_breakFrame _)
  exact .ite (fun _ => h.trans (keeps_unsync _)) (fun _ => h)

/-- Every event that is neither a transaction of the local port nor a reset has the wire form, in every state. -/
theorem exec_wireForm (c : Instr) (s : State)
    (hc : (∃ p l, c = .qualifiedLevelChange p l) ∨ c = .mediumQuiet ∨ c = .keepaliveExpired ∨ c = .guardPassed ∨
      c = .openFrame ∨ c = .followOnStart ∨ c = .startObserved ∨ (∃ l, c = .enterBeat l) ∨ c = .roundEndedWithWinner ∨
      (∃ l, c = .frameEnd l) ∨ c = .withdrawal ∨ c = .provingEntry ∨ (∃ n, c = .peerLost n) ∨ (∃ i, c = .pulseExpiry i) ∨
      (∃ k, c = .holdLimitAbandon k) ∨ (∃ h, c = .noticeVoidedOut h) ∨ c = .followOnBeat ∨ c = .stopObserved ∨
      c = .frameBrokenByStart ∨ c = .frameBrokenByStop ∨ (∃ m, c = .lateMark m) ∨ c = .mediumStuck ∨ c = .beatStart ∨
      ∃ l, c = .beatEnd l) : WireForm c s := by
  rcases hc with ⟨p, l, rfl⟩ | rfl | rfl | rfl | rfl | rfl | rfl | ⟨l, rfl⟩ | rfl | ⟨l, rfl⟩ | rfl | rfl | ⟨n, rfl⟩ |
    ⟨i, rfl⟩ | ⟨k, rfl⟩ | ⟨h, rfl⟩ | rfl | rfl | rfl | rfl | ⟨m, rfl⟩ | rfl | rfl | ⟨l, rfl⟩
  · exact ⟨_, rfl, keeps_pinSettles s p l⟩
  · exact wireForm_ite rfl (keeps_becomeQuiet s)
  · exact wireForm_ite rfl (.of_dispatch rfl rfl rfl rfl rfl)
  · exact wireForm_ite rfl (.of_dispatch rfl rfl rfl rfl rfl)
  · exact wireForm_ite rfl (keeps_startFrame s true)
  · exact wireForm_ite rfl (keeps_startFrame s true)
  · exact wireForm_ite rfl (keeps_startFrame s false)
  · exact wireForm_ite rfl ((keeps_settleRound s).trans (keeps_enterStep _ l))
  · exact ⟨_, rfl, keeps_settleRound s⟩
  · exact wireForm_ite rfl ((keeps_settleRound s).trans (keeps_frameEndStep _ l))
  · exact ⟨_, rfl, keeps_withdrawIfDue s⟩
  · exact wireForm_ite rfl ((keeps_becomeProving s).trans (keeps_record _ _))
  · exact wireForm_ite rfl (keeps_losePeer s n)
  · exact wireForm_ite rfl (keeps_setSource s i _)
  · exact wireForm_ite rfl ((keeps_abandonClaim s k).trans (keeps_record _ _))
  · refine ⟨_, rfl, ?_⟩
    split
    · refine .ite (fun _ => ?_) (fun _ => .refl s)
      exact .of_dispatch rfl rfl rfl rfl rfl
    · exact .refl s
  · exact wireForm_ite rfl (keeps_followOnStep s)
  · exact wireForm_ite rfl (keeps_frameClosed s)
  · exact wireForm_ite rfl (keeps_brokenByStart s)
  · exact wireForm_ite rfl (keeps_brokenByStop s)
  · refine wireForm_ite (u := if s.membership.link = .leaving then s.enterDetached else match m with
      | .start => s.startFrame false
      | .stop => s.unsync) (by cases m <;> rfl) (.ite (fun _ => keeps_enterDetached s) (fun _ => ?_))
    cases m
    · exact keeps_startFrame s false
    · exact keeps_unsync s
  · exact wireForm_ite rfl ((keeps_settleRound s).trans (keeps_stall _))
  · exact wireForm_ite rfl ((keeps_settleRound s).trans (keeps_fallSlb _))
  · exact wireForm_ite rfl (keeps_riseSlb s l)

end Sys2Proof.Machine
end

