-- ==== Sys2Proof/Laws/Frame.lean ====
section
/-! SUPPORT. The end of a round, the hold limit and the end of a frame, block by block. -/

namespace Sys2Proof.Machine

open Sys2Proof

/-! ## End of a round -/

/-- R36: the end of a round changes the contention state, the error record, the phase, and the claims and notices. -/
theorem endRound_others (s : State) : s.endRound = { s with
    contention := s.endRound.contention
    errors := s.endRound.errors
    line := { s.line with phase := s.endRound.line.phase }
    claims := s.endRound.claims
    sender := s.endRound.sender } := by
  have h1 : ∀ u : State, u.tellWon = { u with claims := u.tellWon.claims, sender := u.tellWon.sender } := by
    intro u
    unfold State.tellWon
    split <;> rfl
  unfold State.endRound
  dsimp only
  split_ifs
  all_goals first | (rw [h1]; done) | (rw [h1]; rfl) | (rw [handBackOffered_eq]; done) | (rw [handBackOffered_eq]; rfl)

theorem settleRound_others (s : State) : s.settleRound = { s with
    contention := s.settleRound.contention
    errors := s.settleRound.errors
    line := { s.line with phase := s.settleRound.line.phase }
    claims := s.settleRound.claims
    sender := s.settleRound.sender } := by
  unfold State.settleRound
  split
  · exact endRound_others s
  · rfl

@[simp] theorem settleRound_membership (s : State) : s.settleRound.membership = s.membership := by
  rw [settleRound_others]

@[simp] theorem settleRound_image (s : State) : s.settleRound.image = s.image := by
  rw [settleRound_others]

@[simp] theorem settleRound_sources (s : State) : s.settleRound.sources = s.sources := by
  rw [settleRound_others]

@[simp] theorem settleRound_receiver (s : State) : s.settleRound.receiver = s.receiver := by
  rw [settleRound_others]

@[simp] theorem settleRound_dispatch (s : State) : s.settleRound.dispatch = s.dispatch := by
  rw [settleRound_others]

@[simp] theorem settleRound_config (s : State) : s.settleRound.config = s.config := by
  rw [settleRound_others]

@[simp] theorem settleRound_medium (s : State) : s.settleRound.line.medium = s.line.medium := by
  rw [settleRound_others]

/-! ## Hold limit -/

/-- R113: claims given up on a list of lines: their records IDLE, their serve flags cleared, their entries orphaned. -/
theorem abandonAll_eq (l : List LineNo) (s : State) : l.foldl State.abandonClaim s = { s with
    claims := { s.claims with records := Table.of fun k => if k ∈ l then .idle else s.claims.records[k] }
    dispatch := { s.dispatch with
      serveFlags := Table.of fun k => if k ∈ l then false else s.dispatch.serveFlags[k]
      inService := s.dispatch.inService.map fun e =>
        if e.kind = .lineServe ∧ ∃ k ∈ l, e.source = lineDelivery k then { e with orphaned := true } else e } } := by
  induction l generalizing s with
  | nil =>
    have h1 : (Table.of fun k => if k ∈ ([] : List LineNo) then ClaimState.idle else s.claims.records[k]) =
        s.claims.records := by
      apply table_ext
      intro k
      rw [tableOf_get]
      simp
    have h2 : (Table.of fun k => if k ∈ ([] : List LineNo) then false else s.dispatch.serveFlags[k]) =
        s.dispatch.serveFlags := by
      apply table_ext
      intro k
      rw [tableOf_get]
      simp
    rw [h1, h2]
    simp
  | cons j l ih =>
    rw [List.foldl_cons, ih]
    unfold State.abandonClaim Dispatch.abandon Claims.setRecord
    have h1 : (Table.of fun k => if k ∈ l then ClaimState.idle else (s.claims.records.put j .idle)[k]) =
        Table.of fun k => if k ∈ j :: l then .idle else s.claims.records[k] := by
      apply table_ext
      intro k
      rw [tableOf_get, tableOf_get, tablePut_get]
      by_cases h : k = j <;> by_cases h' : k ∈ l <;> simp [h, h']
    have h2 : (Table.of fun k => if k ∈ l then false else (s.dispatch.serveFlags.put j false)[k]) =
        Table.of fun k => if k ∈ j :: l then false else s.dispatch.serveFlags[k] := by
      apply table_ext
      intro k
      rw [tableOf_get, tableOf_get, tablePut_get]
      by_cases h : k = j <;> by_cases h' : k ∈ l <;> simp [h, h']
    simp only [h1, h2, List.map_map]
    congr 2
    apply List.map_congr_left
    intro e _
    simp only [Function.comp_apply]
    by_cases hk : e.kind = .lineServe <;> by_cases hj : e.source = lineDelivery j <;>
      by_cases hl : ∃ k ∈ l, e.source = lineDelivery k <;> simp_all

/-! ## The link decision of an accepted frame -/

theorem applyLink_stays (s : State) (m c : List StationEvent) : s.applyLink .stays m c = s.recordGroups m c := rfl

theorem applyLink_joins (s : State) (m c : List StationEvent) :
    s.applyLink .joins m c = (s.setLink .joined).recordGroups (m ++ [.linkChanged .joined]) c := rfl

theorem applyLink_refused (s : State) (r : JoinRefusal) (m c : List StationEvent) : s.applyLink (.refused r) m c =
    { s with membership := { s.membership with lastRefusal := some r } }.detachBlocks.recordGroups
      (m ++ [StationEvent.joinRefused r, StationEvent.linkChanged .detached]) (c ++ s.abandonEvents) := rfl

/-- R60: the second accepted frame of LISTENING makes the station PROVING, the first only counts. -/
theorem applyLink_counts (s : State) (m c : List StationEvent) (hl : s.membership.link = .listening) :
    s.applyLink .counts m c = if 1 ≤ s.membership.listeningCount then
      { s with membership := { s.membership with listeningCount := s.membership.listeningCount + 1 }
        }.becomeProving.recordGroups (m ++ [StationEvent.linkChanged .proving]) c
    else
      { s with membership := { s.membership with listeningCount := s.membership.listeningCount + 1 } }.recordGroups m c := by
  simp only [State.applyLink, State.provingDue, hl]
  by_cases h : 1 ≤ s.membership.listeningCount
  · rw [if_pos h, if_pos (by simp; omega)]
  · rw [if_neg h, if_neg (by simp; omega)]

/-! ## The end of the verdict beat -/

/-- R46: a frame end before the blocks react: the beat counted, the error record completed. -/
def State.verdictTaken (s : State) (sample : Level) : State :=
  let drive := verdictDrive s.membership.link s.membership.level s.errors.detected
  { s with
    line := { s.line with beatCount := s.line.beatCount + 1, slb := .recessive, sld := drive, phase := .followOn }
    errors := { s.errors with
      verdictDrive := drive
      driveFault := s.errors.driveFault || (drive == .dominant && sample == .recessive) } }

theorem frameEndStep_eq (s : State) (sample : Level) : s.frameEndStep sample =
    (((s.verdictTaken sample).settleVerdict (frameOutcome sample s.errors.detected) s.errors.detected).applyFrame
      (frameOutcome sample s.errors.detected)).withdrawIfDue := rfl

theorem detected_eq_true_iff (e : ErrorRecord) :
    e.detected = true ↔ e.driveFault = true ∨ e.checkFault = true ∨ e.formFault = true := by
  simp [ErrorRecord.detected, or_assoc]

/-- R46: the state in which the blocks apply an accepted frame. -/
def State.accepting (s : State) : State :=
  { s.verdictTaken .recessive with image := { s.image with frameNumber := s.image.frameNumber + 1 } }.setTally
    (s.membership.tally - 1)

theorem accepting_eq (s : State) : s.accepting = { s.verdictTaken .recessive with
    image := { s.image with frameNumber := s.image.frameNumber + 1 }
    membership := { s.membership with
      tally := s.membership.tally - 1
      level := levelAfter s.membership.level (s.membership.tally - 1)
      events := if levelAfter s.membership.level (s.membership.tally - 1) = s.membership.level then s.membership.events
        else appendEvent s.membership.events
          ⟨.levelChanged (levelAfter s.membership.level (s.membership.tally - 1)), s.image.frameNumber + 1, false⟩ } } := by
  unfold State.accepting
  rw [setTally_eq]
  rfl

/-- R44, R46: an accepted frame's end. A station that has been lowering its tally is not withdrawn. -/
theorem frameEndStep_accepted (s : State) (h : s.errors.detected = false) :
    s.frameEndStep .recessive = s.accepting.acceptFrame.withdrawIfDue := by
  rw [frameEndStep_eq, h]
  rfl

end Sys2Proof.Machine
end

