-- ==== Sys2Proof/Laws/Ranges.lean ====
section
/-! SUPPORT. The source records, the contention state and the listening count stay in range: one lemma per operation that writes
them. -/

namespace Sys2Proof.Machine

open Sys2Proof

/-! ## Source records (R78) -/

/-- An IDLE source without a further edge and without a count is in range whatever its configuration. -/
theorem SourceRun.InRange.ofIdle {r : SourceRun} (c : SourceConfig) (h : r.holding = false) (ha : r.again = false)
    (hp : r.pulseCount = 0) : r.InRange c :=
  ⟨fun _ => ⟨ha, hp⟩, fun h' => absurd (h.symm.trans h') Bool.false_ne_true, fun _ => hp,
    fun _ h' => absurd (h.symm.trans h') Bool.false_ne_true⟩

/-- The range does not look at drove, the soft level or the filtered level. -/
theorem SourceRun.InRange.congr {r r' : SourceRun} {c : SourceConfig} (h : r.InRange c) (hh : r'.holding = r.holding)
    (ha : r'.again = r.again) (hp : r'.pulseCount = r.pulseCount) : r'.InRange c :=
  ⟨fun x => by rw [ha, hp]; exact h.idle (hh ▸ x), fun x => h.latched (hh ▸ x), fun x => hp ▸ h.untilServed x,
    fun x y => hp ▸ h.pulse x (hh ▸ y)⟩

theorem pulseFrames_inRange {p : BitVec 4} (h : p ≠ 0) : 1 ≤ p.toNat ∧ p.toNat ≤ 15 := by
  have : p.toNat ≠ 0 := fun e => h (BitVec.eq_of_toNat_eq e)
  have := p.isLt
  omega

theorem edge_inRange {r : SourceRun} {c : SourceConfig} (h : r.InRange c) (hc : c.pulseFrames ≠ 0) : (r.edge c).InRange c := by
  have hp := pulseFrames_inRange hc
  obtain ⟨line, d, frames, pol⟩ := c
  obtain ⟨holding, again, count, drove, soft, filtered⟩ := r
  obtain ⟨h1, h2, h3, h4⟩ := h
  cases line <;> cases d <;> cases holding <;> simp_all [SourceRun.edge] <;> constructor <;> simp_all

theorem release_inRange {r : SourceRun} {c : SourceConfig} (h : r.InRange c) (hd : c.discipline = .untilServed) :
    r.release.InRange c := by
  obtain ⟨line, d, frames, pol⟩ := c
  obtain ⟨holding, again, count, drove, soft, filtered⟩ := r
  obtain ⟨h1, h2, h3, h4⟩ := h
  cases holding <;> cases again <;> simp_all [SourceRun.release] <;> constructor <;> simp_all

/-- In range no pulse stands at its expiry. -/
theorem expirePulse_eq_self {r : SourceRun} {c : SourceConfig} (h : r.InRange c) (hd : c.discipline = .pulse) :
    r.expirePulse c = r := by
  have : r.pulseDue = false := by
    by_cases hh : r.holding = true
    · have := (h.pulse hd hh).1
      simp [SourceRun.pulseDue]
      omega
    · simp [SourceRun.pulseDue, Bool.not_eq_true _ ▸ hh]
  simp [SourceRun.expirePulse, this]

theorem accept_inRange {r : SourceRun} {c : SourceConfig} (h : r.InRange c) (hc : c.pulseFrames ≠ 0) (samples : SlotSamples) :
    (r.accept c samples).InRange c := by
  unfold SourceRun.accept
  split
  · split
    · exact h
    · next hd =>
      have hp := pulseFrames_inRange hc
      obtain ⟨holding, again, count, drove, soft, filtered⟩ := r
      obtain ⟨h1, h2, h3, h4⟩ := h
      by_cases hz : count - 1 = 0 <;> cases holding <;> cases again <;>
        simp_all [SourceRun.expirePulse, SourceRun.pulseDue] <;> constructor <;> simp_all <;> omega
    · next hd =>
      split
      · exact (by split <;> [exact release_inRange h hd; exact h])
      · exact h
  · exact h

/-- R86, R87: a source that did not drive is left as it was, so an IDLE one stays so. -/
theorem accept_not_drove {r : SourceRun} (c : SourceConfig) (samples : SlotSamples) (h : r.drove = false) :
    r.accept c samples = r := by simp [SourceRun.accept, h]

/-! ## Contention state (R22) -/

/-- The phases in which no round is begun or in progress. -/
def Phase.outsideRounds : Phase → Bool
  | .noFrame | .verdict | .followOn | .closing | .closed => true
  | .slots | .enter | .word | .body | .roundEnd => false

/-- The range looks at the round, the number of winners, the word and the body, and at the phase. -/
theorem Contention.InRange.congr {c c' : Contention} {p p' : Phase} (h : c.InRange p) (hr : c'.round = c.round)
    (hw : c'.winners = c.winners) (hword : c'.word = c.word) (hbody : c'.body = c.body)
    (hp : p' = p ∨ p'.outsideRounds = true) : c'.InRange p' := by
  obtain ⟨h1, h2, h3, h4, h5, h6, h7, h8, h9⟩ := h
  rcases hp with rfl | hp
  · constructor <;> (try rw [hr]) <;> (try rw [hw]) <;> (try rw [hword]) <;> (try rw [hbody]) <;> assumption
  · constructor <;> (try rw [hr]) <;> (try rw [hw]) <;> (try rw [hword]) <;> (try rw [hbody]) <;>
      first | assumption | (intro e; cases p' <;> simp_all [Phase.outsideRounds])

theorem empty_inRange (p : Phase) (hp : p ≠ .word ∧ p ≠ .body ∧ p ≠ .roundEnd) : Contention.empty.InRange p := by
  constructor <;> simp_all [Contention.empty]

/-! ## The operations -/

/-- What an operation keeps of the three ranges, the configuration being the same. -/
structure KeepsRanges (s u : State) : Prop where
  config : u.config = s.config
  listening : s.ListeningOk → u.ListeningOk
  sources : s.ConfigOk → s.SourcesOk → u.SourcesOk
  contention : s.ContentionOk → u.ContentionOk

theorem KeepsRanges.refl (s : State) : KeepsRanges s s := ⟨rfl, id, fun _ => id, id⟩

theorem configOk_congr {s u : State} (h : u.config = s.config) (hs : s.ConfigOk) : u.ConfigOk :=
  ⟨h ▸ hs.keepalive, h ▸ hs.holdLimit, h ▸ hs.pulseFrames⟩

theorem KeepsRanges.trans {s t u : State} (h : KeepsRanges s t) (k : KeepsRanges t u) : KeepsRanges s u :=
  ⟨k.config.trans h.config, k.listening ∘ h.listening,
    fun hc hs => k.sources (configOk_congr h.config hc) (h.sources hc hs), k.contention ∘ h.contention⟩

theorem KeepsRanges.ite {s u v : State} {c : Prop} [Decidable c] (hu : c → KeepsRanges s u) (hv : ¬ c → KeepsRanges s v) :
    KeepsRanges s (if c then u else v) := by
  split
  · next h => exact hu h
  · next h => exact hv h

theorem listeningOk_congr {s u : State} (hl : u.membership.link = s.membership.link)
    (hn : u.membership.listeningCount = s.membership.listeningCount) (h : s.ListeningOk) : u.ListeningOk := by
  unfold State.ListeningOk
  rw [hl, hn]
  exact h

theorem sourcesOk_congr {s u : State} (hc : u.config = s.config) (hl : u.membership.link.lineIdle = true →
    s.membership.link.lineIdle = true) (hs : u.sources = s.sources) (h : s.SourcesOk) : u.SourcesOk :=
  ⟨by rw [hs, hc]; exact h.inRange, fun x => by rw [hs]; exact h.offline (hl x)⟩

/-- Every source IDLE, without drove and soft level. -/
theorem sourcesOk_cleared {u : State} (h : ∀ i : SourceNo, ∃ r : SourceRun, u.sources[i] = r.clear) : u.SourcesOk := by
  refine ⟨fun i => ?_, fun _ i => ?_⟩ <;> obtain ⟨r, hr⟩ := h i <;> rw [hr]
  · exact .ofIdle _ rfl rfl rfl
  · exact ⟨rfl, rfl, rfl⟩

theorem contentionOk_congr {s u : State} (hc : u.contention = s.contention)
    (hp : u.line.phase = s.line.phase ∨ u.line.phase.outsideRounds = true) (h : s.ContentionOk) : u.ContentionOk :=
  Contention.InRange.congr h (by rw [hc]) (by rw [hc]) (by rw [hc]) (by rw [hc]) hp

/-- The range read at a phase that is known. -/
theorem contentionOk_at {u : State} {p : Phase} (hp : u.line.phase = p) (h : u.contention.InRange p) : u.ContentionOk := by
  unfold State.ContentionOk
  rw [hp]
  exact h

/-- An update that leaves the membership unit's link state and count, the sources and the contention state, and does not begin a
round. -/
theorem KeepsRanges.of_same {s u : State} (hconf : u.config = s.config) (hl : u.membership.link = s.membership.link)
    (hn : u.membership.listeningCount = s.membership.listeningCount) (hs : u.sources = s.sources)
    (hc : u.contention = s.contention) (hp : u.line.phase = s.line.phase ∨ u.line.phase.outsideRounds = true) :
    KeepsRanges s u :=
  ⟨hconf, listeningOk_congr hl hn, fun _ => sourcesOk_congr hconf (by rw [hl]; exact id) hs, contentionOk_congr hc hp⟩

/-- An update of the contention state and the phase that leaves link state, count and sources. -/
theorem KeepsRanges.of_contention {s u : State} (hconf : u.config = s.config) (hm : u.membership = s.membership)
    (hs : u.sources = s.sources) (hc : s.ContentionOk → u.ContentionOk) : KeepsRanges s u :=
  ⟨hconf, listeningOk_congr (by rw [hm]) (by rw [hm]), fun _ => sourcesOk_congr hconf (by rw [hm]; exact id) hs, hc⟩

/-! ## Sources written one at a time -/

/-- Writing one source keeps the ranges where what is written is in range, and IDLE off the line. -/
theorem ranges_setSource (s : State) (i : SourceNo) (r : SourceRun)
    (h : s.ConfigOk → s.SourcesOk → r.InRange s.config.sources[i] ∧
      (s.membership.link.lineIdle = true → r.holding = false ∧ r.drove = false ∧ r.softActive = false)) :
    KeepsRanges s (s.setSource i r) := by
  have e : ∀ j : SourceNo, (s.setSource i r).sources[j] = if j = i then r else s.sources[j] := fun j => tablePut_get _ _ _ _
  refine ⟨rfl, listeningOk_congr rfl rfl, fun hc hs => ⟨fun j => ?_, fun hi j => ?_⟩, contentionOk_congr rfl (.inl rfl)⟩
  · rw [e]
    split
    · next hj => subst hj; exact (h hc hs).1
    · exact hs.inRange j
  · rw [e]
    split
    · exact (h hc hs).2 hi
    · exact hs.offline hi j

/-- R84: an edge is taken on the line only. -/
theorem ranges_takeEdge (s : State) (i : SourceNo) : KeepsRanges s (s.takeEdge i) := by
  unfold State.takeEdge
  refine .ite (fun h => ranges_setSource _ _ _ fun hc hs => ⟨edge_inRange (hs.inRange i) (hc.pulseFrames i), fun hl => ?_⟩)
    (fun _ => .refl s)
  exfalso
  cases e : s.membership.link <;> simp_all [LinkState.takesEdges, LinkState.lineIdle]

/-! ## Events, entries and rounds -/

theorem ranges_recordGroups (s : State) (m c : List StationEvent) : KeepsRanges s (s.recordGroups m c) := by
  rw [recordGroups_eq]
  exact .of_same rfl rfl rfl rfl rfl (.inl rfl)

theorem ranges_record (s : State) (e : StationEvent) : KeepsRanges s (s.record e) := .of_same rfl rfl rfl rfl rfl (.inl rfl)

theorem ranges_setTally (s : State) (t : Nat) : KeepsRanges s (s.setTally t) := by
  rw [setTally_eq]
  exact .of_same rfl rfl rfl rfl rfl (.inl rfl)

theorem ranges_handBackOffered (s : State) : KeepsRanges s s.handBackOffered := by
  rw [handBackOffered_eq]
  exact .of_contention rfl rfl rfl fun h => Contention.InRange.congr h rfl rfl rfl rfl (.inl rfl)

theorem ranges_detachBlocks (s : State) : KeepsRanges s s.detachBlocks := by
  have h : s.detachBlocks = { s.handBackOffered with
      line := s.detachBlocks.line, membership := s.detachBlocks.membership, sources := s.detachBlocks.sources
      image := s.detachBlocks.image, claims := s.detachBlocks.claims, sender := s.detachBlocks.sender
      dispatch := s.detachBlocks.dispatch } := rfl
  refine (ranges_handBackOffered s).trans ⟨rfl, fun _ => ?_, fun _ _ => ?_, contentionOk_congr rfl (.inr rfl)⟩
  · exact ⟨Nat.zero_le _, fun _ => Nat.zero_le _⟩
  · exact sourcesOk_cleared fun i => ⟨s.handBackOffered.sources[i], tableOf_get _ i⟩

theorem ranges_enterDetached (s : State) : KeepsRanges s s.enterDetached :=
  (ranges_detachBlocks s).trans (ranges_recordGroups _ _ _)

theorem ranges_enterWithdrawn (s : State) : KeepsRanges s s.enterWithdrawn := by
  refine .trans (t := s.withdrawBlocks) ((ranges_handBackOffered s).trans
    ⟨rfl, fun h => ?_, fun _ _ => ?_, contentionOk_congr rfl (.inr rfl)⟩) (ranges_recordGroups _ _ _)
  · exact ⟨h.1, fun e => absurd e (by simp [State.withdrawBlocks])⟩
  · exact sourcesOk_cleared fun i => ⟨s.handBackOffered.sources[i], tableOf_get _ i⟩

theorem ranges_withdrawIfDue (s : State) : KeepsRanges s s.withdrawIfDue :=
  .ite (fun _ => ranges_enterWithdrawn s) (fun _ => .refl s)

theorem ranges_startFrame (s : State) (own : Bool) : KeepsRanges s (s.startFrame own) := by
  refine ⟨rfl, listeningOk_congr rfl rfl, fun _ h => ?_, fun _ => empty_inRange _ (by simp [State.startFrame])⟩
  have hs : ∀ i : SourceNo, (s.startFrame own).sources[i] = { s.sources[i] with drove := s.contributes i } :=
    fun i => tableOf_get _ i
  refine ⟨fun i => (h.inRange i).congr (by rw [hs]) (by rw [hs]) (by rw [hs]), fun hl i => ?_⟩
  have hj : s.contributes i = false := by
    have hl' : s.membership.link.lineIdle = true := hl
    cases e : s.membership.link <;> simp_all [State.contributes, LinkState.lineIdle]
  rw [hs]
  exact ⟨(h.offline hl i).1, hj, (h.offline hl i).2.2⟩

theorem ranges_unsync (s : State) : KeepsRanges s s.unsync := .of_same rfl rfl rfl rfl rfl (.inr rfl)

theorem ranges_driveFault (s : State) (b : Bool) : KeepsRanges s (s.driveFault b) :=
  .of_contention rfl rfl rfl fun h => Contention.InRange.congr h rfl rfl rfl rfl (.inl rfl)

/-- R36: a round that was due is in the list, and the next enter beat or the verdict beat follows. -/
theorem ranges_endRound (s : State) (hp : s.line.phase = .roundEnd) : KeepsRanges s s.endRound := by
  have h : s.endRound.contention.round = s.contention.round ∧
      s.endRound.contention.winners.length = s.contention.winners.length + 1 ∧
      s.endRound.contention.word = s.contention.word ∧ s.endRound.contention.body = s.contention.body ∧
      s.endRound.line.phase = if s.contention.round < 4 then .enter else .verdict := by
    have h1 : ∀ u : State, u.tellWon.contention = u.contention := by
      intro u
      unfold State.tellWon
      split <;> rfl
    unfold State.endRound
    dsimp only
    split_ifs <;> simp_all [handBackOffered_eq, State.checkFault]
  obtain ⟨hr, hw, hword, hbody, hphase⟩ := h
  refine ⟨?_, listeningOk_congr ?_ ?_, fun _ => sourcesOk_congr ?_ ?_ ?_, fun ⟨a1, a2, a3, a4, a5, a6, a7, a8, a9⟩ => ?_⟩
  · rw [endRound_others]
  · rw [endRound_others]
  · rw [endRound_others]
  · rw [endRound_others]
  · rw [endRound_others]; exact id
  · rw [endRound_others]
  · have := a5 (.inr (.inr hp))
    refine contentionOk_at hphase ?_
    split <;> constructor <;> simp_all
    omega

theorem ranges_settleRound (s : State) : KeepsRanges s s.settleRound := by
  unfold State.settleRound
  refine .ite (fun h => ranges_endRound s ?_) (fun _ => .refl s)
  simp [State.roundDue] at h
  exact h.2

theorem ranges_offer (s : State) (i : Option Item) : KeepsRanges s (s.offer i) := by
  unfold State.offer
  split <;> exact .of_contention rfl rfl rfl fun h => Contention.InRange.congr h rfl rfl rfl rfl (.inl rfl)

theorem ranges_enterFall (s : State) : KeepsRanges s s.enterFall :=
  (ranges_offer s _).trans (.of_same rfl rfl rfl rfl rfl (.inl rfl))

/-- R23: a round begins only where fewer than 4 have. -/
theorem ranges_enterSampled (s : State) (drove : Bool) (sample : Level) (hp : s.line.phase = .enter) :
    KeepsRanges s (s.enterSampled drove sample) := by
  cases sample with
  | dominant =>
    refine .of_contention rfl rfl rfl fun ⟨a1, a2, a3, a4, a5, a6, a7, a8, a9⟩ => ?_
    have := a4 hp
    refine contentionOk_at (p := .word) rfl ?_
    constructor <;> simp [State.enterSampled, State.countBeat] <;> omega
  | recessive =>
    have h : KeepsRanges s (if drove then (s.driveFault false).handBackOffered else s) :=
      .ite (fun _ => (ranges_driveFault s false).trans (ranges_handBackOffered _)) (fun _ => .refl s)
    exact h.trans (.of_same rfl rfl rfl rfl rfl (.inr rfl))

theorem ranges_enterStep (s : State) (sample : Level) (hp : s.line.phase = .enter) : KeepsRanges s (s.enterStep sample) := by
  unfold State.enterStep
  dsimp only
  split
  · exact ranges_enterSampled _ _ _ hp
  · refine (ranges_enterFall s).trans (ranges_enterSampled _ _ _ ?_)
    rw [← hp]
    simp only [State.enterFall]
    unfold State.offer
    split <;> rfl

theorem ranges_slotEnd (s : State) (sample : Level) (hp : s.line.phase = .slots) : KeepsRanges s (s.slotEnd sample) := by
  have h : (s.slotEnd sample).contention.round = s.contention.round ∧
      (s.slotEnd sample).contention.winners = s.contention.winners ∧
      (s.slotEnd sample).contention.word = s.contention.word ∧ (s.slotEnd sample).contention.body = s.contention.body ∧
      ((s.slotEnd sample).line.phase = .slots ∨ (s.slotEnd sample).line.phase = .enter) ∧
      (s.slotEnd sample).config = s.config ∧ (s.slotEnd sample).membership = s.membership ∧
      (s.slotEnd sample).sources = s.sources := by
    unfold State.slotEnd
    dsimp only
    split_ifs <;> simp [State.countBeat, State.driveFault]
  obtain ⟨hr, hw, hword, hbody, hphase, hc, hm, hs⟩ := h
  refine .of_contention hc hm hs fun ⟨a1, a2, a3, a4, a5, a6, a7, a8, a9⟩ => ?_
  have := a3 hp
  rcases hphase with h | h <;> refine contentionOk_at h ?_ <;> constructor <;> simp_all

theorem ranges_wordEnd (s : State) (sample : Level) (hp : s.line.phase = .word) : KeepsRanges s (s.wordEnd sample) := by
  have h : (s.wordEnd sample).contention.round = s.contention.round ∧
      (s.wordEnd sample).contention.winners = s.contention.winners ∧
      (s.wordEnd sample).contention.word = s.contention.word ++ [sample] ∧
      (s.wordEnd sample).contention.body = s.contention.body ∧
      (if s.contention.word.length + 1 < 22 then (s.wordEnd sample).line.phase = .word
        else (s.wordEnd sample).line.phase = .body ∨ (s.wordEnd sample).line.phase = .roundEnd) ∧
      (s.wordEnd sample).config = s.config ∧ (s.wordEnd sample).membership = s.membership ∧
      (s.wordEnd sample).sources = s.sources := by
    unfold State.wordEnd
    dsimp only
    split_ifs <;> simp_all [State.countBeat, State.driveFault, State.formFault]
  obtain ⟨hr, hw, hword, hbody, hphase, hc, hm, hs⟩ := h
  refine .of_contention hc hm hs fun ⟨a1, a2, a3, a4, a5, a6, a7, a8, a9⟩ => ?_
  have h5 := a5 (.inl hp)
  have h7 := a7 hp
  split at hphase
  · refine contentionOk_at hphase ?_
    constructor <;> simp_all
  · rcases hphase with h | h <;> refine contentionOk_at h ?_ <;> constructor <;> simp_all

/-- R29, R32, R33: a body is counted by at most 8 data bytes. -/
theorem bodyBeats_le (s : State) (hs : ∀ (h : Handle) (e : TransmitEntry), s.sender.entries[h] = some e → e.data.length ≤ 8) :
    bodyBeats s.bodyLength ≤ 84 := by
  have h : s.bodyLength ≤ 8 := by
    unfold State.bodyLength
    split
    · unfold State.ownData
      split
      · split
        · next h e he => exact hs _ _ he
        · exact Nat.zero_le _
      · exact Nat.zero_le _
    · exact Nat.min_le_left _ _
  unfold bodyBeats
  omega

/-- R32, R33: a body beat touches neither membership unit nor source unit. -/
theorem bodyEnd_others (s : State) (sample : Level) : (s.bodyEnd sample).config = s.config ∧
    (s.bodyEnd sample).membership = s.membership ∧ (s.bodyEnd sample).sources = s.sources := by
  unfold State.bodyEnd
  dsimp only
  split_ifs <;> exact ⟨rfl, rfl, rfl⟩

/-- R32, R33: a body beat keeps the contention state in range where the own notice has at most 8 data bytes. -/
theorem contentionOk_bodyEnd (s : State) (sample : Level) (hp : s.line.phase = .body) (ht : s.TransmitOk)
    (hs : s.ContentionOk) : (s.bodyEnd sample).ContentionOk := by
  have hlt : ∀ {u : State}, (s.contention.body ++ [sample]).length < bodyBeats u.bodyLength → u.sender = s.sender →
      s.contention.body.length + 1 < 84 := fun {u} h hu => by
    rw [List.length_append, List.length_singleton] at h
    exact lt_of_lt_of_le h (bodyBeats_le u (by rw [hu]; exact ht.lengths))
  have h : (s.bodyEnd sample).contention.round = s.contention.round ∧
      (s.bodyEnd sample).contention.winners = s.contention.winners ∧
      (s.bodyEnd sample).contention.word = s.contention.word ∧
      (s.bodyEnd sample).contention.body = s.contention.body ++ [sample] ∧
      ((s.bodyEnd sample).line.phase = .body ∧ s.contention.body.length + 1 < 84 ∨
        (s.bodyEnd sample).line.phase = .roundEnd) := by
    unfold State.bodyEnd
    dsimp only
    split_ifs <;> refine ⟨rfl, rfl, rfl, rfl, ?_⟩
    all_goals first
      | exact .inr rfl
      | (rename_i hx; exact .inl ⟨rfl, hlt hx rfl⟩)
  obtain ⟨hr, hw, hword, hbody, hphase⟩ := h
  obtain ⟨a1, a2, a3, a4, a5, a6, a7, a8, a9⟩ := hs
  have h5 := a5 (.inr (.inl hp))
  have h9 := a9 hp
  rcases hphase with ⟨h, h'⟩ | h <;> refine contentionOk_at h ?_ <;> constructor <;> simp_all

/-! ## The ends of a frame -/

theorem ranges_dropFrame (s : State) : KeepsRanges s s.dropFrame := by
  unfold State.dropFrame
  exact .of_same rfl rfl rfl rfl rfl (.inl rfl)

theorem ranges_dropStuck (s : State) : KeepsRanges s s.dropStuck := by
  unfold State.dropStuck
  exact .of_same rfl rfl rfl rfl rfl (.inl rfl)

theorem ranges_breakFrame (s : State) : KeepsRanges s s.breakFrame := by
  unfold State.breakFrame
  dsimp only
  refine .ite (fun _ => .trans ?_ (ranges_enterDetached _)) (fun _ => .trans ?_ (ranges_withdrawIfDue _))
  all_goals
    refine .trans (.trans (.trans ?_ (ranges_setTally _ _)) (ranges_dropFrame _)) (ranges_handBackOffered _)
    exact .of_same rfl rfl rfl rfl rfl (.inr rfl)

/-- R86, R87: an accepted frame leaves configuration, link state, count, contention state and phase, and each source takes it in. -/
theorem acceptBlocks_ranges (s : State) : s.acceptBlocks.config = s.config ∧
    s.acceptBlocks.membership.link = s.membership.link ∧
    s.acceptBlocks.membership.listeningCount = s.membership.listeningCount ∧
    s.acceptBlocks.contention = s.contention ∧ s.acceptBlocks.line.phase = s.line.phase ∧
    ∀ i : SourceNo, s.acceptBlocks.sources[i] = s.sources[i].accept s.config.sources[i] s.line.samples := by
  dsimp only [State.acceptBlocks]
  exact ⟨rfl, rfl, rfl, rfl, rfl, fun i => tableOf_get _ i⟩

/-- R86, R87: an accepted frame keeps every source in range, and changes none that did not drive. -/
theorem ranges_acceptBlocks (s : State) : KeepsRanges s s.acceptBlocks := by
  obtain ⟨hconf, hl, hn, hc, hp, hs⟩ := acceptBlocks_ranges s
  refine ⟨hconf, listeningOk_congr hl hn, fun h h' => ⟨fun i => ?_, fun hi i => ?_⟩, contentionOk_congr hc (.inl hp)⟩
  · rw [hs, hconf]
    exact accept_inRange (h'.inRange i) (h.pulseFrames i) _
  · rw [hl] at hi
    rw [hs, accept_not_drove _ _ (h'.offline hi i).2.1]
    exact h'.offline hi i

theorem ranges_abandonAll (l : List LineNo) (s : State) : KeepsRanges s (l.foldl State.abandonClaim s) := by
  rw [abandonAll_eq]
  exact .of_same rfl rfl rfl rfl rfl (.inl rfl)

/-- R58, R60: the accepted frame that brings the listening count to 2 makes the station PROVING. -/
theorem ranges_applyLink (s : State) (v : LinkVerdict) (m c : List StationEvent)
    (hv : v = .counts → s.membership.link = .listening) :
    KeepsRanges s (s.applyLink v m c) := by
  cases v with
  | stays => exact ranges_recordGroups s m c
  | joins =>
    refine .trans (t := s.setLink .joined) ⟨rfl, fun h => ⟨h.1, fun e => ?_⟩, fun _ => sourcesOk_congr rfl ?_ rfl,
      contentionOk_congr rfl (.inl rfl)⟩ (ranges_recordGroups _ _ _)
    · exact absurd (show LinkState.joined = .listening from e) (by decide)
    · exact fun e => absurd (show LinkState.joined.lineIdle = true from e) (by decide)
  | refused r =>
    rw [applyLink_refused]
    refine .trans (.trans ?_ (ranges_detachBlocks _)) (ranges_recordGroups _ _ _)
    exact .of_same rfl rfl rfl rfl rfl (.inl rfl)
  | counts =>
    have hl := hv rfl
    rw [applyLink_counts s m c hl]
    split
    · next h1 =>
      refine .trans (t := { s with membership := { s.membership with
          listeningCount := s.membership.listeningCount + 1 } }.becomeProving)
        ⟨rfl, fun h => ⟨?_, fun e => ?_⟩, fun _ => sourcesOk_congr rfl ?_ rfl, contentionOk_congr rfl (.inl rfl)⟩ (ranges_recordGroups _ _ _)
      · exact Nat.succ_le_succ (h.2 hl)
      · exact absurd (show LinkState.proving = .listening from e) (by decide)
      · exact fun e => absurd (show LinkState.proving.lineIdle = true from e) (by decide)
    · next h1 =>
      have h0 : s.membership.listeningCount + 1 ≤ 1 := by omega
      refine .trans (t := { s with membership := { s.membership with listeningCount := s.membership.listeningCount + 1 } })
        ⟨rfl, fun _ => ⟨h0.trans (by decide), fun _ => h0⟩, fun _ => sourcesOk_congr rfl id rfl,
        contentionOk_congr rfl (.inl rfl)⟩ (ranges_recordGroups _ _ _)

/-- R59: only a LISTENING station counts accepted frames. -/
theorem linkVerdict_counts (s : State) (h : s.linkVerdict = .counts) : s.membership.link = .listening := by
  revert h
  unfold State.linkVerdict
  cases s.membership.link <;> dsimp only <;> (try split_ifs) <;> simp

theorem ranges_acceptFrame (s : State) : KeepsRanges s s.acceptFrame := by
  have hl : ((s.acceptBlocks).expiredLines.foldl State.abandonClaim s.acceptBlocks).membership.link = s.membership.link := by
    rw [abandonAll_eq]
    exact (acceptBlocks_ranges s).2.1
  refine (ranges_acceptBlocks s).trans ((ranges_abandonAll _ _).trans (ranges_applyLink _ _ _ _ ?_))
  rw [hl]
  exact linkVerdict_counts s

theorem ranges_settleVerdict (s : State) (o : FrameOutcome) (d : Bool) : KeepsRanges s (s.settleVerdict o d) := by
  unfold State.settleVerdict
  refine .trans (.ite (fun _ => ?_) (fun _ => .refl s)) (ranges_setTally _ _)
  exact .of_same rfl rfl rfl rfl rfl (.inl rfl)

theorem ranges_applyFrame (s : State) (o : FrameOutcome) : KeepsRanges s (s.applyFrame o) := by
  cases o with
  | accepted => exact ranges_acceptFrame s
  | voided => exact ranges_dropFrame s
  | locallyDiscarded => exact ranges_dropFrame s

theorem ranges_frameEndStep (s : State) (sample : Level) : KeepsRanges s (s.frameEndStep sample) := by
  rw [frameEndStep_eq]
  refine .trans (.trans (.trans ?_ (ranges_settleVerdict _ _ _)) (ranges_applyFrame _ _)) (ranges_withdrawIfDue _)
  exact .of_same rfl rfl rfl rfl rfl (.inr rfl)

end Sys2Proof.Machine
end

