-- ==== Sys2Proof/Tests/Slice0.lean ====
section
/-! SUPPORT. The model's own tests: the check of commands, one step each on small states, and for every statement with
hypotheses a state and operands that meet them. -/

namespace Sys2Proof.Tests

open Sys2Proof Sys2Proof.Machine

-- One theorem at a time: a kernel evaluation waits for every proof before it, and many waiting at once run out of threads.
set_option Elab.async false

/-! ## Small states -/

/-- The state a command leaves. -/
def after (c : Instr) (s : State) : State :=
  match exec c s with
  | .next t => t
  | .fault _ => s
  | .refused _ => s

/-- A configured station in a link state, QUIET with the guard passed. -/
def quiet (l : LinkState) : State :=
  { State.reset with
    config := { Configuration.reset with complete := true }
    membership := { Membership.reset with link := l }
    line := { LineController.reset with medium := .quiet, guardTimer := .reached, keepaliveTimer := .running } }

/-- A station in a link state in a frame, at a phase, outside a beat or in one. -/
def inFrame (l : LinkState) (p : Phase) (slb : Level) : State :=
  { quiet l with line := { (quiet l).line with medium := .inFrame, phase := p, slb := slb } }

/-- A transmit entry in a state. -/
def entry (x : EntryState) : TransmitEntry := ⟨300, 2, [0xAB, 0x12], 0, false, x⟩

/-- A station with one transmit entry at handle 0 and it posted. -/
def withEntry (x : EntryState) (s : State) : State :=
  { s with sender := ⟨s.sender.entries.put 0 (some (entry x)), [0], []⟩ }

/-- A station with station events waiting. -/
def withEvents (n : Nat) (s : State) : State :=
  { s with membership := { s.membership with events := List.replicate n ⟨.linkChanged .joined, 1, false⟩ } }

/-- A station with one entry in service. -/
def serving (e : ServiceEntry) (s : State) : State := { s with dispatch := { s.dispatch with inService := [e] } }

/-- A station with line 9 configured. -/
def withLine (c : Subscription) (s : State) : State :=
  { s with config := { s.config with lines := s.config.lines.put 9 c } }

/-- A station with the claim record of line 9 set. -/
def claiming (r : ClaimState) (s : State) : State := { s with claims := { s.claims with records := s.claims.records.put 9 r } }

/-- A station with source 0 configured on line 9 and in a running state. -/
def withSource (d : SourceDiscipline) (r : SourceRun) (s : State) : State :=
  { s with
    config := { s.config with sources := s.config.sources.put 0 ⟨some 9, d, 2, .high⟩ }
    sources := s.sources.put 0 r }

/-- A station in a round of its own notice at handle 0, with these beats of the word and the body read. -/
def contending (word body : List Level) (p : Phase) (slb : Level) : State :=
  let s := withEntry .contending (inFrame .joined p slb)
  { s with contention := { s.contention with
      round := 1, role := .contender, offered := some (.notice 0), word := word, body := body } }

/-- The 22 beats of a contention word. -/
def wordBeats (u : Urgency) (k : ItemKind) (key : Tag) (n : StationNo) : List Level :=
  (List.range 22).map fun i => Level.ofBit ((contentionWord u k key n).getMsbD i)

theorem attnOk_of {s : State} (h : s.dispatch.attnLow = s.attentionDue) : s.AttnOk := h

/-- The transmit list is in order, as a check that can be computed. -/
def transmitOk (s : State) : Bool :=
  ((List.finRange 4).all fun h =>
    decide (h ∈ s.sender.posting) == entryPosted s.sender.entries[h] &&
    decide (h ∈ s.sender.reports) == entryDone s.sender.entries[h] &&
    match s.sender.entries[h] with
    | none => true
    | some e => decide (e.data.length ≤ 8) && decide (e.voidCount ≤ 7) &&
        (e.state != .waiting || !e.cancelRequested)) &&
  decide s.sender.posting.Nodup && decide s.sender.reports.Nodup

theorem transmitOk_of {s : State} (h : transmitOk s = true) : s.TransmitOk := by
  simp only [transmitOk, Bool.and_eq_true, List.all_eq_true, List.mem_finRange, forall_const, decide_eq_true_eq] at h
  obtain ⟨⟨h, hp⟩, hr⟩ := h
  refine ⟨fun k => ?_, fun k => ?_, hp, hr, fun k e he => ?_, fun k e he => ?_, fun k e he hw => ?_⟩
  · have := (h k).1.1
    rw [beq_iff_eq] at this
    rw [← this, decide_eq_true_eq]
  · have := (h k).1.2
    rw [beq_iff_eq] at this
    rw [← this, decide_eq_true_eq]
  all_goals
    have := (h k).2
    rw [he] at this
    simp only [Bool.and_eq_true, decide_eq_true_eq, Bool.or_eq_true, bne_iff_ne, ne_eq, Bool.not_eq_true'] at this
  · exact this.1.1
  · exact ⟨by omega, fun _ => this.1.2⟩
  · exact this.2.resolve_left (fun hn => hn hw)

/-! ## The check of commands -/

theorem test_postNotice_missing_data_refused : (Instr.postNotice 5 0 3 []).wellFormed = false := by decide
theorem test_postNotice_data_after_bad_length_refused : (Instr.postNotice 5 0 9 [1]).wellFormed = false := by decide
theorem test_postNotice_exact_data_accepted : (Instr.postNotice 5 0 2 [1, 2]).wellFormed = true := by decide
theorem test_no_word_spells_a_command : decodeTableWord 8 0x01 = none := rfl

/-! ## One step each -/

theorem test_ident : (after .ident State.reset).port.response = [0x00, 0x12, 0xE0, 0x01, 0x30, 0x20] := by decide +kernel

/-- The example of 11.7: one TAKE of a notice. -/
theorem test_take_notice :
    let s := { quiet .joined with
      config := { (quiet .joined).config with station := { StationSection.reset with rankA := 2 } }
      receiver := ⟨⟨[⟨150, 6, 2, 3, [0x5A, 0x07, 0xC1], 501, false⟩], 0, false⟩, .reset⟩
      dispatch := { Dispatch.reset with tokenCounter := 7, attnLow := true } }
    (after .take s).port.response =
      [0x00, 7, 48, 2, 2, 0, 0, 0, 150, 6, 2, 3, 0x01, 0xF5, 0, 0x5A, 0x07, 0xC1] := by
  decide +kernel

theorem test_take_empty : (after .take State.reset).port.response = [0x01, 0x00] := by decide +kernel

theorem test_join_unconfigured : (after .join State.reset).port.response = [0x08] := by decide +kernel

theorem test_join_configured : (after .join { State.reset with config := { Configuration.reset with complete := true } }
    ).membership.link = .listening := by decide +kernel

theorem test_leave_in_frame : (after .leave (inFrame .joined .slots .recessive)).membership.link = .leaving := by
  decide +kernel

theorem test_unknown_command : (after .unknownCommand State.reset).port.response = [0x09] := by decide +kernel

/-- The station after `n` steps on an empty queue. -/
def idled (n : Nat) (s : State) : State := Nat.iterate State.clockPeriod n s

/-- R174, R176: after UNKNOWN_COMMAND (09h) LPO is low, gives the eight bits of the status byte, and then zeros; the rise of LPS
releases it. -/
theorem test_lpo :
    let s := after .unknownCommand (quiet .joined)
    (List.range 11).map (fun n => (idled n s).port.lpo) =
      [.low, .low, .low, .low, .low, .high, .low, .low, .high, .low, .low] ∧
    (after (.transactionCutShort .afterResponse) (idled 11 s)).port.lpo = .released := by decide +kernel

/-- R182: with LPS low at the end of a pin reset LPO is low and no transaction begins before LPS has risen. -/
theorem test_waits_after_pin_reset :
    let s := { quiet .joined with port := .afterPinReset true }
    s.port.lpo = .low ∧ (idled 3 s).port = s.port ∧ (after .resetAtLpsRise s).port = LocalPort.idle ∧
      (after (.transactionCutShort .inCommandByte) s).port = LocalPort.idle :=
  ⟨rfl, rfl, rfl, rfl⟩

/-- R174, R176: while a command is read LPO is low; a bit more is read in each period; a cut drops them. -/
theorem test_reading :
    let s := { quiet .joined with port := ⟨.reading [false, true], [], 0, false⟩ }
    s.port.lpo = .low ∧
    (idled 1 s).port = ⟨.reading [false, true, Config.lpiBit s.freeIndex], [], 0, false⟩ ∧ (idled 1 s).port.lpo = .low ∧
    (after (.transactionCutShort .inCommandByte) s).port = LocalPort.idle :=
  ⟨rfl, rfl, rfl, rfl⟩

/-- R15: after the closing beat SLD is released, and a further fall of SLB is not answered. -/
theorem test_closing_beat_releases :
    let s := after (.beatEnd .dominant) (inFrame .joined .closing .dominant)
    s.line.phase = .closed ∧ s.line.sld = .recessive ∧ (after .beatStart s).line = s.line := by decide +kernel

theorem test_finish_newest_empty : (after .finishNewest State.reset).port.response = [0x01] := by decide +kernel

theorem test_mask_above_range : (after (.mask 52) State.reset).port.response = [0x04] := by decide +kernel

theorem test_post_then_full_handle :
    (after (.postNotice 300 2 2 [0xAB, 0x12]) (quiet .joined)).port.response = [0x00, 0x00] := by decide +kernel

theorem test_cancel_waiting : (after (.cancelNotice 0) (withEntry .waiting (quiet .joined))).sender = Sender.reset := by
  decide +kernel

theorem test_assert_source_detached : (after (.assertSource 0) State.reset).port.response = [0x03] := by decide +kernel

theorem test_slot_drive_fault :
    let s := inFrame .joined .slots .dominant
    (after (.beatEnd .recessive) { s with line := { s.line with plan := { s.line.plan with roster := .dominant } } }
      ).errors.driveFault = true := by decide +kernel

theorem test_malformed_word_is_form_fault :
    let s := inFrame .joined .word .dominant
    (after (.beatEnd .recessive) { s with contention := { s.contention with
      round := 1, word := (wordBeats 0 .unassigned 0 31).take 21 } }).errors.formFault = true := by decide +kernel

theorem test_broken_frame_counts_eight :
    (after .frameBrokenByStop (inFrame .joined .verdict .recessive)).membership.tally = 8 := by decide +kernel

theorem test_voided_frame_counts_one :
    (after (.frameEnd .dominant) (inFrame .joined .verdict .recessive)).membership.tally = 1 := by decide +kernel

theorem test_accepted_frame_counts_down :
    let s := inFrame .joined .verdict .recessive
    (after (.frameEnd .recessive) { s with membership := { s.membership with tally := 5 } }).membership.tally = 4 := by
  decide +kernel

theorem test_image_rises :
    let s := inFrame .joined .verdict .recessive
    (after (.frameEnd .recessive) { s with
      line := { s.line with samples := { s.line.samples with line := s.line.samples.line.put 9 .dominant } }
      image := { s.image with baseline := false } }).image.lines[9] =
      ⟨true, false, false, .nobody, true, false, 1⟩ := by decide +kernel

theorem test_levels :
    levelAfter .clean 95 = .clean ∧ levelAfter .clean 96 = .warned ∧ levelAfter .warned 64 = .warned ∧
      levelAfter .warned 63 = .clean ∧ levelAfter .warned 159 = .warned ∧ levelAfter .warned 160 = .muted ∧
      levelAfter .muted 128 = .muted ∧ levelAfter .muted 127 = .warned ∧ levelAfter .muted 63 = .clean := by decide

theorem test_pin_reset_latches : (after (.pinReset 17 2) (quiet .joined)).straps = ⟨17, 2⟩ := by decide +kernel

/-! ## What the statements assume is met -/

theorem attn_reset : State.reset.AttnOk := attnOk_of (by decide +kernel)
theorem attn_joined : (quiet .joined).AttnOk := attnOk_of (by decide +kernel)
theorem attn_verdict : (inFrame .joined .verdict .recessive).AttnOk := attnOk_of (by decide +kernel)

theorem witness_EmptyQueueStepAdvancesKeyGenerator : State.reset.pending = [] := rfl

/-- The hypotheses of the reads: IDENT, STATUS, READ IMAGE, the list reads, READ CONFIGURATION and the first part of
FailedTransactionsAndTakenReset. -/
theorem witness_reads : (quiet .joined).port.resetTaken = false ∧ (quiet .joined).AttnOk := ⟨rfl, attn_joined⟩

theorem witness_ReadConfiguration_badArg : 3 < (4 : Byte).toNat ∧ (1 : Byte) ≠ 0 ∧ 47 < (48 : Byte).toNat ∧
    15 < (16 : Byte).toNat := by decide

/-- The hypotheses of the clauses about LPO: LPS high; a command being read; no bit due yet and none left; the first and the last
bit of an answer. -/
theorem witness_lpo : LocalPort.idle.phase = .closed ∧
    (LocalPort.afterPinReset true).phase = .waiting ∧
    (⟨.reading [true], [], 0, false⟩ : LocalPort).phase = .reading [true] ∧
    (∀ p ∈ ([⟨.answering, [0x09], 0, false⟩, ⟨.answering, [0x09], 9, false⟩] : List LocalPort),
      p.phase = .answering ∧ (p.edges = 0 ∨ 8 * p.response.length < p.edges)) ∧
    ([0x00, 0x09] : List Byte) = [] ++ 0x00 :: [0x09] ∧ 1 = 8 * ([] : List Byte).length + 0 + 1 ∧
    ([0x00, 0x09] : List Byte) = [0x00] ++ 0x09 :: [] ∧ 16 = 8 * ([0x00] : List Byte).length + 7 + 1 := by decide

theorem witness_takenReset : Instr.ident.opensTransaction = true ∧
    (after .reset (quiet .joined)).port.resetTaken = true := ⟨rfl, by decide +kernel⟩

/-- The hypotheses of the four CONFIGURE statements: a station that may be configured, and one that may not. -/
theorem witness_Configure : State.reset.port.resetTaken = false ∧ State.reset.membership.link = .detached ∧
    (quiet .joined).port.resetTaken = false ∧ (quiet .joined).membership.link ≠ .detached := ⟨rfl, rfl, rfl, by decide⟩

theorem witness_ConfigureStation_operands : StationSection.reset.keepalive ≠ 0 ∧ StationSection.reset.holdLimit ≠ 0 ∧
    31 < (32 : Byte).toNat ∧ 15 < (16 : Byte).toNat ∧ 3 < (4 : Byte).toNat ∧ 2 < (3 : Byte).toNat := by decide

theorem witness_ConfigureLine_operands : 47 < (48 : Byte).toNat ∧ 2 < (3 : Byte).toNat ∧ 3 < (4 : Byte).toNat ∧
    15 < (16 : Byte).toNat := by decide

theorem witness_ConfigureSource_operands : SourceConfig.reset.pulseFrames ≠ 0 ∧ 15 < (16 : Byte).toNat ∧
    (47 < (48 : Byte).toNat ∧ (48 : Byte) ≠ 0x3F) ∧ 2 < (3 : Byte).toNat ∧ 1 < (2 : Byte).toNat := by decide

theorem witness_ConfigureFilter_operands : (FilterEntry.reset.form = .range → FilterEntry.reset.first ≤ FilterEntry.reset.second) ∧
    3 < (4 : Byte).toNat ∧ 2047 < (2048 : Word16).toNat ∧ (31 < (32 : Byte).toNat ∧ (32 : Byte) ≠ 0x3F) ∧
    ((1 : Byte).toNat < 2 ∧ (4 : Word16) < 5) := by decide

theorem witness_ConfigureThenRead_station :
    exec (.configureStation 1 255 31 15 0 15 0 3 2) State.reset =
      .next (after (.configureStation 1 255 31 15 0 15 0 3 2) State.reset) ∧
    (after (.configureStation 1 255 31 15 0 15 0 3 2) State.reset).port.response = [0x00] := ⟨rfl, by decide +kernel⟩

theorem witness_ConfigureThenRead_line :
    exec (.configureLine 47 2 3 15 0) State.reset = .next (after (.configureLine 47 2 3 15 0) State.reset) ∧
    (after (.configureLine 47 2 3 15 0) State.reset).port.response = [0x00] := ⟨rfl, by decide +kernel⟩

theorem witness_ConfigureThenRead_source :
    exec (.configureSource 15 0x3F 2 15 1) State.reset = .next (after (.configureSource 15 0x3F 2 15 1) State.reset) ∧
    (after (.configureSource 15 0x3F 2 15 1) State.reset).port.response = [0x00] := ⟨rfl, by decide +kernel⟩

theorem witness_ConfigureThenRead_filter :
    exec (.configureFilter 15 3 2047 0 31 2) State.reset = .next (after (.configureFilter 15 3 2047 0 31 2) State.reset) ∧
    (after (.configureFilter 15 3 2047 0 31 2) State.reset).port.response = [0x00] := ⟨rfl, by decide +kernel⟩

theorem witness_ConfigurationIsFrozen : (quiet .withdrawn).port.resetTaken = false ∧
    (quiet .withdrawn).membership.link ≠ .detached ∧ ∀ n r, Instr.join ≠ .pinReset n r :=
  ⟨rfl, by decide, fun _ _ => nofun⟩

theorem witness_Join : State.reset.membership.link = .detached ∧ State.reset.config.complete = false ∧
    (quiet .detached).membership.link = .detached ∧ (quiet .detached).config.complete = true ∧
    (quiet .listening).membership.link ≠ .detached := ⟨rfl, rfl, rfl, rfl, by decide⟩

theorem witness_Leave : (inFrame .leaving .slots .recessive).membership.link = .leaving ∧
    ((inFrame .joined .slots .recessive).membership.link = .joined ∧
      (inFrame .joined .slots .recessive).line.medium = .inFrame) ∧
    (quiet .stalled).membership.link = .stalled ∧
    ((quiet .proving).membership.link = .proving ∧ (quiet .proving).line.medium ≠ .inFrame) :=
  ⟨rfl, ⟨rfl, rfl⟩, rfl, rfl, by decide⟩

theorem witness_EntryToDetached : (contending [] [] .word .recessive).TransmitOk ∧
    (contending [] [] .word .recessive).offersNotice 0 = true := ⟨transmitOk_of (by decide +kernel), by decide +kernel⟩

/-- A joined station whose tally stands at its ceiling. -/
def atCeiling : State :=
  { quiet .joined with membership := { (quiet .joined).membership with tally := 255, level := .muted } }

theorem witness_Withdrawal : (atCeiling.membership.tally = 255 ∧ atCeiling.membership.link = .joined) ∧
    ((quiet .joined).AttnOk ∧ (quiet .joined).membership.tally < 255) := ⟨⟨rfl, rfl⟩, attn_joined, by decide⟩

theorem witness_ProvingEntry :
    let s := quiet .listening
    let t := { s with membership := { s.membership with listeningCount := 2 } }
    (t.membership.link = .listening ∧ 2 ≤ t.membership.listeningCount) ∧
      s.AttnOk ∧ s.membership.listeningCount < 2 :=
  ⟨⟨rfl, by decide⟩, attnOk_of (by decide +kernel), by decide⟩

theorem witness_PeerLost :
    let s := quiet .joined
    let t := { s with membership := { s.membership with roster := s.membership.roster.put 31 ⟨true, 3⟩ } }
    (t.membership.roster[(31 : StationNo)].present = true ∧ 2 < t.membership.roster[(31 : StationNo)].absentCount) ∧
      s.AttnOk ∧ s.membership.roster[(31 : StationNo)].present = false :=
  ⟨by decide +kernel, attn_joined, by decide +kernel⟩

theorem witness_EventQueue : (withEvents 7 State.reset).membership.events.length = 7 := by decide

theorem witness_EventQueue_full : (withEvents 8 State.reset).membership.events =
    List.replicate 7 ⟨.linkChanged .joined, 1, false⟩ ++ [⟨.linkChanged .joined, 1, false⟩] := by decide

/-! ### Dispatch -/

/-- A station with two sources of rank 15 pending, 48 and 51, and rotation on with a pointer. -/
def rotating (p : Option DeliveryNo) : State :=
  let s := withEvents 1 (quiet .joined)
  { s with
    config := { s.config with station := { s.config.station with rotate := true } }
    receiver := ⟨⟨[⟨150, 6, 2, 0, [], 501, false⟩], 0, false⟩, .reset⟩
    dispatch := { s.dispatch with pointers := s.dispatch.pointers.put 15 p } }

theorem witness_TakeSelects : (rotating none).selected = some 48 ∧ (rotating (some 48)).selected = some 51 ∧
    (rotating (some 51)).selected = some 48 ∧ (quiet .joined).selected = none := by decide +kernel

theorem witness_TakeSelects_token :
    let d := { Dispatch.reset with
      tokenCounter := 255
      inService := [⟨255, 1, .lineWatch, 9, false⟩, ⟨1, 2, .lineWatch, 8, false⟩, ⟨2, 3, .lineWatch, 7, false⟩] }
    let s := { quiet .joined with dispatch := d }
    s.ServiceOk ∧ s.dispatch.inService.length < 4 ∧ s.dispatch.freshToken = 3 :=
  ⟨⟨by decide, by decide, by decide, by decide, by decide⟩, by decide, by decide⟩

/-- A watched line 9 with its edge flag set. -/
def watchPending : State :=
  let s := withLine ⟨.watch, .edge, true, 3, 15⟩ (quiet .joined)
  { s with dispatch := { s.dispatch with edgeFlags := s.dispatch.edgeFlags.put 9 true } }

/-- A served line 9 with its serve flag set. -/
def servePending : State :=
  let s := claiming (.owned 5) (withLine ⟨.serve, .edge, false, 3, 15⟩ (quiet .joined))
  { s with dispatch := { s.dispatch with serveFlags := s.dispatch.serveFlags.put 9 true } }

/-- A station with a report waiting. -/
def reporting : State := { quiet .joined with sender := ⟨Sender.reset.entries.put 3 (some (entry (.done .sent))), [], [3]⟩ }

theorem witness_TakeDelivers_lines :
    (servePending.selected = some (lineDelivery 9) ∧ servePending.config.lines[(9 : LineNo)].role = .serve) ∧
    (watchPending.selected = some (lineDelivery 9) ∧ watchPending.config.lines[(9 : LineNo)].role = .watch) := by
  decide +kernel

theorem witness_TakeDelivers_queues :
    ((rotating none).selected = some 48 ∧ (rotating none).receiver.queueA.records ≠ []) ∧
    (let s := { quiet .joined with receiver := ⟨.reset, ⟨[⟨150, 6, 2, 0, [], 501, true⟩], 1, false⟩⟩ }
     s.selected = some 49 ∧ s.receiver.queueB.records ≠ []) ∧
    (reporting.selected = some 50 ∧ reporting.sender.reports = [3] ∧
      reporting.sender.entries[(3 : Handle)] = some (entry (.done .sent))) ∧
    ((withEvents 1 (quiet .joined)).selected = some 51 ∧ (withEvents 1 (quiet .joined)).membership.events ≠ []) := by
  decide +kernel

theorem witness_Finish_orphaned : ((serving ⟨7, 9, .lineServe, 3, true⟩ (quiet .joined)).dispatch.inService =
      [] ++ [ServiceEntry.mk 7 9 .lineServe 3 true]) ∧ (7 : Byte) ≠ 0 := ⟨rfl, by decide⟩

theorem witness_Finish_serve :
    let s := serving ⟨255, 9, .lineServe, 3, false⟩ (claiming (.owned 0) (quiet .joined))
    s.dispatch.inService = [] ++ [ServiceEntry.mk 255 9 .lineServe 3 false] ∧ (9 : DeliveryNo) = lineDelivery 9 ∧
      s.claims.records[(9 : LineNo)] = .owned 0 := by decide +kernel

theorem witness_Finish_watch :
    let s := serving ⟨1, 9, .lineWatch, 3, false⟩ watchPending
    let t := serving ⟨1, 9, .lineWatch, 3, false⟩ (withLine ⟨.watch, .level, false, 3, 15⟩ (quiet .joined))
    s.config.lines[(9 : LineNo)].acknowledge = true ∧ t.config.lines[(9 : LineNo)].acknowledge = false ∧
      (∀ e ∈ s.dispatch.inService, e.token ≠ 2) ∧ s.dispatch.inService ≠ [] := by decide +kernel

theorem witness_Masks : (quiet .joined).port.resetTaken = false ∧ 51 < (52 : Byte).toNat := by decide

theorem witness_WithdrawnFlag : (quiet .joined).port.resetTaken = false ∧ ∀ n r, Instr.take ≠ .pinReset n r :=
  ⟨rfl, fun _ _ => nofun⟩

/-! ### Sources and notices -/

theorem witness_SoftSource : 3 < (4 : Byte).toNat ∧ (0 : Byte).toNat + 12 = (12 : SourceNo).val ∧
    (3 : Byte).toNat + 12 = (15 : SourceNo).val ∧ (quiet .withdrawn).membership.link = .withdrawn ∧
    (quiet .stalled).membership.link.onLine := ⟨by decide, by decide, by decide, rfl, by decide, by decide⟩

theorem witness_QualifiedPin :
    let s := withSource .pulse ⟨true, false, 1, false, false, some .low⟩ (quiet .joined)
    s.sources[(0 : SourceNo)].filtered = some .low ∧ ¬ ActiveLevel s.config.sources[(0 : SourceNo)].polarity .low ∧
      ActiveLevel s.config.sources[(0 : SourceNo)].polarity .high ∧ s.membership.link.onLine ∧
      (quiet .joined).sources[(11 : SourceNo)].filtered = none ∧ (11 : SourceNo).val = (11 : PinNo).val := by
  unfold ActiveLevel LinkState.onLine
  decide +kernel

theorem witness_EdgeTaken (c : SourceConfig) (r : SourceRun) (hl : c.line ≠ none) (hd : c.discipline = .untilServed)
    (hr : r.holding = false) : EdgeTaken c r { r with holding := true } :=
  ⟨fun h => by simp_all, fun _ h => by simp_all, fun _ _ _ => rfl, fun _ _ h => by simp_all⟩

theorem witness_PulseExpiry :
    let s := withSource .pulse ⟨true, true, 0, true, false, none⟩ (quiet .joined)
    (s.config.sources[(0 : SourceNo)].discipline = .pulse ∧ s.sources[(0 : SourceNo)].holding = true ∧
      s.sources[(0 : SourceNo)].pulseCount = 0) ∧
    ((quiet .joined).AttnOk ∧ (quiet .joined).sources[(0 : SourceNo)].holding = false) :=
  ⟨by decide +kernel, attn_joined, by decide +kernel⟩

theorem witness_HoldLimitAbandon :
    let s := claiming (.owned 256) (quiet .joined)
    let t := claiming (.owned 255) (quiet .joined)
    (s.claims.records[(9 : LineNo)] = .owned 256 ∧ s.config.station.holdLimit.toNat * 8 ≤ 256) ∧
      t.AttnOk ∧ t.claims.records[(9 : LineNo)] = .owned 255 ∧ 255 < t.config.station.holdLimit.toNat * 8 :=
  ⟨by decide +kernel, attnOk_of (by decide +kernel), by decide +kernel, by decide +kernel⟩

theorem witness_NoticeVoidedOut :
    let e : TransmitEntry := { entry .won with voidCount := 8 }
    let s := { quiet .joined with sender := ⟨Sender.reset.entries.put 3 (some e), [3], []⟩ }
    s.sender.entries[(3 : Handle)] = some e ∧ e.state = .won ∧ e.cancelRequested = false ∧ 8 ≤ e.voidCount ∧
      (withEntry .waiting (quiet .joined)).sender.entries[(0 : Handle)] = some (entry .waiting) ∧
      (entry .waiting).state ≠ .won := by decide +kernel

theorem witness_PostNotice_rows : (quiet .withdrawn).membership.link = .withdrawn ∧
    ((quiet .stalled).membership.link ≠ .detached ∧ (quiet .stalled).membership.link ≠ .leaving ∧
      (quiet .stalled).membership.link ≠ .withdrawn) ∧
    2047 < (2048 : Word16).toNat ∧ 15 < (16 : Byte).toNat ∧ 8 < (9 : Byte).toNat := by decide

theorem witness_PostNotice_lists :
    let full := { quiet .joined with sender := ⟨Table.of fun _ => some (entry (.done .sent)), [], [0, 1, 2, 3]⟩ }
    let last := { quiet .joined with sender := ⟨(Table.of fun _ => some (entry (.done .sent))).put 3 none, [], [0, 1, 2]⟩ }
    (∀ h : Handle, full.sender.entries[h] ≠ none) ∧ last.sender.entries[(3 : Handle)] = none ∧
      ∀ g : Handle, g < 3 → last.sender.entries[g] ≠ none := by decide +kernel

theorem witness_CancelNotice : 3 < (4 : Byte).toNat ∧ (3 : Byte).toNat = (3 : Handle).val ∧
    ∀ x ∈ [EntryState.waiting, .contending, .won, .done .sent],
      (withEntry x (quiet .joined)).sender.entries[(0 : Handle)] = some (entry x) ∧ (entry x).state = x := by
  decide +kernel

/-! ### The medium -/

theorem witness_MediumQuiet :
    let l := { quiet .listening with line := LineController.reset }
    let s := { quiet .stalled with
      line := { LineController.reset with medium := .stalled }
      membership := { (quiet .stalled).membership with remembered := some .listening } }
    (l.membership.link ≠ .detached ∧ l.membership.link ≠ .withdrawn ∧ l.line.medium = .unsynced ∧
      l.membership.link ≠ .stalled) ∧
    (s.line.medium = .stalled ∧ s.membership.link = .stalled ∧ s.membership.remembered = some .listening) ∧
    ((quiet .joined).AttnOk ∧ (quiet .joined).line.medium = .quiet) :=
  ⟨by decide, by decide, attn_joined, rfl⟩

/-- R38: what a round cut short left is gone at the next start mark. -/
theorem test_start_mark_empties_contention :
    let s := { quiet .joined with
      line := { (quiet .joined).line with keepaliveTimer := .reached }
      contention := ⟨2, .contender, none, [.dominant], [.recessive], 5, true, true, true, []⟩ }
    (after .openFrame s).contention = Contention.empty := by decide +kernel

theorem witness_StartMark :
    let s := { quiet .joined with line := { (quiet .joined).line with followOn := true } }
    (s.line.medium = .quiet ∧ s.membership.link = .joined ∧ s.line.guardTimer = .reached ∧ s.news = true ∧
      s.line.followOn = true) ∧
    ((quiet .leaving).AttnOk ∧ (quiet .leaving).membership.link ≠ .listening ∧
      (quiet .leaving).membership.link ≠ .proving ∧ (quiet .leaving).membership.link ≠ .joined) :=
  ⟨by decide +kernel, attnOk_of (by decide +kernel), by decide, by decide, by decide⟩

theorem witness_FollowOnAndStop : ∀ l ∈ [LinkState.joined, .leaving],
    (inFrame l .followOn .recessive).line.medium = .inFrame ∧ (inFrame l .followOn .recessive).line.phase = .followOn ∧
      (inFrame l .closed .recessive).line.phase = .closed ∧ (inFrame l .closed .recessive).membership.link = l := by decide

theorem witness_FollowOnAndStop_elsewhere : (quiet .joined).AttnOk ∧ (quiet .joined).line.medium ≠ .inFrame :=
  ⟨attn_joined, by decide⟩

theorem witness_MarkInFrame : ∀ l ∈ [LinkState.joined, .leaving],
    (inFrame l .verdict .recessive).line.medium = .inFrame ∧ (inFrame l .verdict .recessive).line.phase = .verdict ∧
      (inFrame l .verdict .recessive).settleRound.membership.link = l ∧
      (inFrame l .verdict .recessive).settleRound.membership.tally < 247 := by decide +kernel

theorem witness_MarkInFrame_ceiling :
    let s := inFrame .joined .slots .recessive
    let t := { s with membership := { s.membership with tally := 247, level := .muted } }
    t.line.medium = .inFrame ∧ t.line.phase = .slots ∧ 247 ≤ t.settleRound.membership.tally := by decide +kernel

theorem witness_FaultLevel : 160 ≤ 160 ∧ (128 ≤ 128 ∧ 128 ≤ 159) ∧ (96 ≤ 159 ∧ 159 ≤ 159) ∧ (64 ≤ 64 ∧ 64 ≤ 127) ∧
    95 ≤ 95 ∧ 63 ≤ 63 := by decide

theorem witness_LateMark : ((inFrame .leaving .followOn .recessive).line.phase = .followOn ∧
      (inFrame .leaving .followOn .recessive).membership.link = .leaving) ∧
    ((inFrame .joined .closing .recessive).line.phase = .closing ∧
      (inFrame .joined .closing .recessive).membership.link ≠ .leaving) ∧
    ((quiet .joined).AttnOk ∧ (quiet .joined).line.medium ≠ .inFrame) := ⟨by decide, by decide, attn_joined, by decide⟩

theorem witness_StuckMedium : ((quiet .joined).membership.link = (match Remembered.joined with
      | .listening => LinkState.listening
      | .proving => LinkState.proving
      | .joined => LinkState.joined) ∧ (quiet .joined).line.medium ≠ .stalled) ∧
    (inFrame .leaving .slots .recessive).membership.link = .leaving ∧
    (State.reset.AttnOk ∧ State.reset.membership.link = .detached) := ⟨by decide, rfl, attn_reset, rfl⟩

/-! ### Beats, rounds and frames -/

theorem witness_BeatStart : ∀ p ∈ [Phase.slots, .enter, .word, .body, .verdict, .followOn, .closing],
    (inFrame .joined p .recessive).line.medium = .inFrame ∧ (inFrame .joined p .recessive).line.slb = .recessive ∧
      p ≠ .noFrame ∧ p ≠ .closed ∧ (inFrame .joined p .recessive).settleRound.line.phase = p ∧
      (inFrame .joined p .recessive).settleRound.contention.role = .receiver := by decide +kernel

theorem witness_BeatStart_contender :
    (contending [] [] .word .recessive).settleRound.contention.offered = some (.notice 0) ∧
      (contending [] [] .body .recessive).settleRound.line.phase = .body ∧
      (contending [] [] .body .recessive).settleRound.contention.role = .contender := by decide +kernel

theorem witness_BeatStart_elsewhere : (inFrame .joined .closed .recessive).AttnOk ∧
    (inFrame .joined .closed .recessive).line.phase = .closed := ⟨attnOk_of (by decide +kernel), rfl⟩

theorem witness_SlotBeat : ∀ n ∈ [0, 31, 32, 79, 80, 127, 128, 175],
    let s := inFrame .joined .slots .dominant
    let t := { s with line := { s.line with beatCount := n } }
    t.line.medium = .inFrame ∧ t.line.slb = .dominant ∧ t.line.phase = .slots ∧ t.line.beatCount < 176 := by decide

theorem witness_WordBeat : ∀ p ∈ [Phase.word, .closing, .enter, .verdict, .followOn],
    (contending [] [] p .dominant).line.medium = .inFrame ∧ (contending [] [] p .dominant).line.slb = .dominant ∧
      (contending [] [] p .dominant).line.phase = p ∧ (contending [] [] p .dominant).contention.role = .contender ∧
      (inFrame .joined p .dominant).contention.role = .receiver := by decide +kernel

theorem witness_BodyBeat : (contending [] [] .body .dominant).line.phase = .body ∧
    (contending [] [] .body .dominant).contention.role = .contender ∧
    (inFrame .joined .body .dominant).line.phase = .body ∧
    (inFrame .joined .body .dominant).contention.role = .receiver := by decide +kernel

/-- A joined station with two notices of one word, handle 2 posted before handle 1. -/
def twoNotices : State :=
  let s := inFrame .joined .enter .recessive
  { s with sender := ⟨(s.sender.entries.put 1 (some (entry .waiting))).put 2 (some (entry .waiting)), [2, 1], []⟩ }

theorem witness_LowestCandidate : twoNotices.lowestItem twoNotices.candidates = some (.notice 2) ∧
    Item.notice 1 ∈ twoNotices.candidates ∧
    twoNotices.itemWord (.notice 1) = twoNotices.itemWord (.notice 2) := by decide +kernel

theorem witness_EnterBeat : twoNotices.settleRound.line.medium = .inFrame ∧ twoNotices.settleRound.line.phase = .enter ∧
    twoNotices.settleRound.line.slb = .recessive ∧ twoNotices.settleRound.TransmitOk :=
  ⟨by decide +kernel, by decide +kernel, by decide +kernel, transmitOk_of (by decide +kernel)⟩

theorem witness_EnterBeat_begun :
    let s := after .beatStart twoNotices
    s.settleRound.line.phase = .enter ∧ s.settleRound.line.slb = .dominant ∧ s.settleRound.line.sld = .dominant ∧
      s.settleRound.contention.offered = some (.notice 2) := by decide +kernel

/-- R26: a notice posted in the low half of an enter beat waits for the next one; the beat, driven recessive, is no fault. -/
theorem test_notice_posted_within_enter_beat :
    let s := after (.postNotice 300 2 0 []) (after .beatStart (inFrame .joined .enter .recessive))
    (after (.beatEnd .recessive) s).errors.driveFault = false ∧ (after (.beatEnd .recessive) s).line.phase = .verdict := by
  decide +kernel

theorem witness_EnterBeat_elsewhere : (quiet .joined).AttnOk ∧ (quiet .joined).line.medium ≠ .inFrame :=
  ⟨attn_joined, by decide⟩

/-- The end of the last beat of a notice's round. -/
def roundDone : State :=
  contending (wordBeats 2 .notice 300 0) ((List.range 36).map fun _ => .recessive) .roundEnd .recessive

theorem witness_RoundEnd : roundDone.line.medium = .inFrame ∧ roundDone.line.phase = .roundEnd ∧
    wordKind roundDone.contention.word = .notice ∧ roundDone.contention.role = .contender ∧
    roundDone.contention.offered = some (.notice 0) ∧
    roundDone.sender.entries[(0 : Handle)] = some (entry .contending) := by decide +kernel

theorem witness_RoundEnd_lost :
    let s := { roundDone with contention := { roundDone.contention with role := .receiver } }
    s.line.phase = .roundEnd ∧ s.contention.role ≠ .contender ∧ wordKind s.contention.word = .notice := by decide +kernel

theorem witness_SentWordAndBody : (contending [] [] .body .recessive).contention.offered = some (.notice 0) ∧
    (contending [] [] .body .recessive).sender.entries[(0 : Handle)] = some (entry .contending) ∧
    (entry .contending).data.length ≤ 8 := by decide +kernel

/-- A station at its verdict beat, in a link state, with the own roster slot and the winner list given. -/
def atVerdict (l : LinkState) (slot : Level) (ws : List WinnerRecord) : State :=
  let s := inFrame l .verdict .recessive
  { s with
    line := { s.line with samples := { s.line.samples with roster := s.line.samples.roster.put 0 slot } }
    contention := { s.contention with round := ws.length, winners := ws }
    membership := { s.membership with helloKey := some 5, tally := 1 } }

theorem atVerdict_meets (l : LinkState) (slot : Level) (ws : List WinnerRecord) :
    (atVerdict l slot ws).AtVerdict (atVerdict l slot ws) ∧ ¬ (atVerdict l slot ws).FaultSeen ∧
      (atVerdict l slot ws).TallyOk := by
  refine ⟨⟨rfl, rfl, rfl⟩, ?_, ?_⟩
  · rintro (h | h | h) <;> exact absurd h Bool.false_ne_true
  · show tallyInRange .clean 1 = true
    decide

theorem witness_UnacceptedFrameEnd :
    let s := atVerdict .joined .recessive []
    let f := { s with errors := { s.errors with checkFault := true } }
    s.AtVerdict s ∧ ¬ s.FaultSeen ∧ f.AtVerdict f ∧ f.FaultSeen :=
  ⟨(atVerdict_meets _ _ _).1, (atVerdict_meets _ _ _).2.1, ⟨rfl, rfl, rfl⟩, Or.inr (Or.inl rfl)⟩

theorem witness_UnacceptedFrameEnd_elsewhere : (quiet .joined).AttnOk ∧ (quiet .joined).line.medium ≠ .inFrame :=
  ⟨attn_joined, by decide⟩

/-- A HELLO that won round 1: the own, or that of a twin of station 0. -/
def hello (own : Bool) : WinnerRecord := ⟨1, .hello, 0, if own then 5 else 6, 0, 0, [], if own then some .hello else none, false⟩

theorem witness_AcceptedFrame_link :
    (after (.frameEnd .recessive) (atVerdict .listening .dominant [])).membership.link = .detached ∧
    (after (.frameEnd .recessive) (atVerdict .listening .recessive [])).membership.listeningCount = 1 ∧
    (after (.frameEnd .recessive) (atVerdict .proving .recessive [hello false])).membership.link = .detached ∧
    (after (.frameEnd .recessive) (atVerdict .proving .recessive [hello true])).membership.link = .joined ∧
    (after (.frameEnd .recessive) (atVerdict .joined .recessive [])).membership.link = .joined := by decide +kernel

theorem witness_AcceptedFrame_listeningSecond :
    let s := atVerdict .listening .recessive []
    let t := { s with membership := { s.membership with listeningCount := 1 } }
    t.AtVerdict t ∧ ¬ t.FaultSeen ∧ t.membership.link = .listening ∧
      t.line.samples.roster[t.straps.stationNumber] = .recessive :=
  ⟨⟨rfl, rfl, rfl⟩, (atVerdict_meets .listening .recessive []).2.1, rfl, by decide +kernel⟩

theorem witness_AcceptedFrame_claims :
    let w : WinnerRecord := ⟨1, .claim, 15, 9, 0, 0, [], some (.claim 9), false⟩
    let s := claiming .won (withLine ⟨.serve, .edge, false, 3, 15⟩ (atVerdict .joined .recessive [w]))
    s.claims.records[(9 : LineNo)] = .won ∧
      (s.contention.winners.filter fun w => w.kind == .claim && w.key.toNat == 9) = [w] ∧
      (after (.frameEnd .recessive) s).claims.records[(9 : LineNo)] = .owned 0 ∧
      (after (.frameEnd .recessive) s).membership.link = .joined := by decide +kernel

theorem witness_AcceptedFrame_hold :
    let s := claiming (.owned 255) (withLine ⟨.serve, .edge, false, 3, 15⟩ (atVerdict .joined .recessive []))
    let t := claiming (.owned 254) (withLine ⟨.serve, .edge, false, 3, 15⟩ (atVerdict .joined .recessive []))
    s.config.station.holdLimit.toNat * 8 ≤ 255 + 1 ∧
      (after (.frameEnd .recessive) s).claims.records[(9 : LineNo)] = .idle ∧
      (after (.frameEnd .recessive) t).claims.records[(9 : LineNo)] = .owned 255 := by decide +kernel

theorem configOk_joined (slot : Level) (ws : List WinnerRecord) : (atVerdict .joined slot ws).ConfigOk := by
  refine ⟨show (10 : Byte) ≠ 0 by decide, show (32 : Byte) ≠ 0 by decide, ?_⟩
  show ∀ i : SourceNo, (Configuration.reset).sources[i].pulseFrames ≠ 0
  decide +kernel

theorem witness_AcceptedFrame_sources : ∀ d ∈ [SourceDiscipline.pulse, .untilServed],
    let s := withSource d ⟨true, true, 1, true, false, none⟩ (atVerdict .joined .recessive [])
    s.sources[(0 : SourceNo)].drove = true ∧ s.config.sources[(0 : SourceNo)].discipline = d ∧
      s.sources[(0 : SourceNo)].holding = true ∧ s.config.sources[(0 : SourceNo)].line = some 9 ∧
      s.line.samples.mark[(9 : LineNo)] = .recessive := by decide +kernel

theorem witness_AcceptedFrame_refused :
    let s := withEntry .waiting (atVerdict .listening .dominant [])
    s.contention.offered = none ∧ s.TransmitOk ∧ (after (.frameEnd .recessive) s).membership.link = .detached ∧
      (after (.frameEnd .recessive) s).sender.reports = [0] := ⟨rfl, transmitOk_of (by decide +kernel), by decide +kernel⟩

/-- Every queue policy and the filter's default are met by a notice that a station takes in. -/
theorem witness_AcceptedFrame_notices :
    let w : WinnerRecord := ⟨1, .notice, 2, 300, 8, 1, [0x5A], none, false⟩
    let s := atVerdict .joined .recessive [w]
    (after (.frameEnd .recessive) s).receiver = s.receiver ∧
      (after (.frameEnd .recessive) { s with config := { s.config with station :=
        { s.config.station with defaultAction := .queueA } } }).receiver.queueA.records =
          [⟨300, 8, 2, 1, [0x5A], 1, false⟩] := by decide +kernel

/-! ### Invariants -/

theorem witness_step : step { quiet .joined with pending := [.leave] } = .next (after .leave (quiet .joined)) := rfl

theorem witness_StepKeepsLine : (inFrame .joined .slots .recessive).LineOk := by
  refine ⟨?_, ?_, ?_, ?_, ?_⟩ <;> decide

theorem witness_StepKeepsRecords : (quiet .joined).TallyOk ∧ (quiet .joined).RosterOk ∧ (quiet .joined).QueuesOk ∧
    (quiet .joined).ServiceOk ∧ (quiet .joined).TransmitOk :=
  ⟨show tallyInRange .clean 0 = true by decide,
    show ∀ n : StationNo, Membership.reset.roster[n].absentCount ≤ 2 ∧
      (Membership.reset.roster[n].present = false → Membership.reset.roster[n].absentCount = 0) by decide +kernel,
    ⟨by decide, by decide, by decide, by decide, by decide⟩,
    ⟨by decide, by decide, by decide, by decide, by decide⟩,
    transmitOk_of (by decide +kernel)⟩

theorem witness_StepKeepsRecords_image : (quiet .joined).ImageOk ∧ (quiet .joined).ConfigOk :=
  ⟨show ∀ k : LineNo, ¬ (Image.reset.lines[k].rose = true ∧ Image.reset.lines[k].fell = true) ∧
      (Image.reset.lines[k].held = true → Image.reset.lines[k].owner ≠ .nobody) by decide +kernel,
    configOk_joined .recessive [] |>.1, configOk_joined .recessive [] |>.2, configOk_joined .recessive [] |>.3⟩

theorem witness_StepKeepsRecords_port : (quiet .joined).PortOk ∧
    { quiet .joined with port := ⟨.reading (List.replicate 103 true), [], 0, false⟩ }.PortOk ∧
    { quiet .joined with port := ⟨.answering, [0x00], 9, true⟩ }.PortOk := by
  refine ⟨⟨fun _ => ⟨rfl, rfl, rfl⟩, fun _ h => ?_, fun h => ?_⟩, ⟨fun _ => ⟨rfl, rfl, rfl⟩, fun _ h => ?_, fun h => ?_⟩,
    ⟨fun h => absurd rfl h, fun _ h => ?_, fun _ => ⟨List.cons_ne_nil _ _, by decide⟩⟩⟩
  · exact PortPhase.noConfusion h
  · exact PortPhase.noConfusion h
  · exact (PortPhase.reading.inj h) ▸ (by decide)
  · exact PortPhase.noConfusion h
  · exact PortPhase.noConfusion h

theorem witness_StepKeepsRecords_listening : (quiet .joined).ListeningOk ∧
    (quiet .listening).ListeningOk := ⟨⟨by decide, by decide⟩, ⟨by decide, by decide⟩⟩

/-- The source clause is met with a PULSE source at its last frame, and off the line. -/
theorem witness_StepKeepsRecords_sources :
    (withSource .pulse ⟨true, true, 1, true, false, none⟩ (quiet .joined)).SourcesOk ∧ (quiet .detached).SourcesOk := by
  have hr : ∀ i : SourceNo, (withSource .pulse ⟨true, true, 1, true, false, none⟩ (quiet .joined)).sources[i] =
      if i = 0 then ⟨true, true, 1, true, false, none⟩ else SourceRun.reset := by decide +kernel
  have hc : (withSource .pulse ⟨true, true, 1, true, false, none⟩ (quiet .joined)).config.sources[(0 : SourceNo)] =
      ⟨some 9, .pulse, 2, .high⟩ := by decide +kernel
  refine ⟨⟨fun i => ?_, fun h => absurd h (by decide)⟩, sourcesOk_cleared fun i => ⟨SourceRun.reset, ?_⟩⟩
  · rw [hr i]
    split
    · next h => subst h; rw [hc]; exact ⟨by decide, by decide, by decide, by decide⟩
    · exact .ofIdle _ rfl rfl rfl
  · revert i; decide +kernel

/-- The contention clause is met before the first round and at the last beat of the fourth round's word. -/
theorem witness_StepKeepsRecords_contention : (inFrame .joined .slots .recessive).ContentionOk ∧
    { inFrame .joined .word .dominant with contention :=
      { Contention.empty with round := 4, word := List.replicate 21 .recessive } }.ContentionOk := by
  constructor <;> constructor <;> decide

theorem witness_StepKeepsClaims : (quiet .joined).ClaimsOk := by
  have hr : ∀ k : LineNo, (quiet .joined).claims.records[k] = .idle := by decide +kernel
  have hi : (quiet .joined).dispatch.inService = [] := rfl
  have hs : ∀ k : LineNo, (quiet .joined).dispatch.serveFlags[k] = false := by decide +kernel
  have hm : ∀ k : LineNo, (quiet .joined).claims.markOwed[k] = false := by decide +kernel
  have hl : ¬ (quiet .joined).membership.link.lineIdle = true := by decide
  refine ⟨fun k h => absurd (hr k) h, fun k h => ?_, ?_, ?_, fun k h => ?_, fun k h => ?_, ?_, fun h => absurd h hl,
    fun k n h => ?_, fun h => absurd h hl⟩
  · rw [hm k] at h; exact absurd h Bool.false_ne_true
  · rw [hi]; simp
  · rw [hi]; simp
  · rw [hs k] at h; exact absurd h Bool.false_ne_true
  · rw [hi]; simp
  · rw [hi]; simp
  · rw [hr k] at h; exact absurd h (by simp)

end Sys2Proof.Tests
end

section
/-! SUPPORT. READ IMAGE (R102): the bytes of a line record in the words of the statements, the lines of a range in order, and an
answer that leaves the rest of the state as it was. -/

namespace Sys2Proof.Machine

open Sys2Proof

/-! ## Bytes of an answer -/

/-- The two spellings of a two-byte number are one (R174). -/
theorem wordBytes_eq_twoBytes (w : Word16) : wordBytes w = twoBytes w := by
  have high : (w >>> 8).setWidth 8 = w.extractLsb' 8 8 := BitVec.setWidth_ushiftRight_eq_extractLsb
  have low : w.setWidth 8 = w.extractLsb' 0 8 := BitVec.setWidth_eq_extractLsb' (by decide)
  rw [wordBytes, twoBytes, high, low]

/-- A byte of five flags is its flag bits joined. -/
theorem flagsByte_five (a b c d e : Bool) :
    flagsByte [a, b, c, d, e] = flagAt 0 a ||| flagAt 1 b ||| flagAt 2 c ||| flagAt 3 d ||| flagAt 4 e := by
  revert a b c d e
  decide

/-- The record of a line in the layout of 11.7.9 is the one READ IMAGE gives for it. -/
theorem imageRecord_line (s : State) (k : LineNo) : s.imageRecord k.val = s.image.lines[k].bytes k := by
  rw [State.imageRecord, dif_pos k.isLt, LineRecord.bytes]
  simp only [Fin.getElem_fin, wordBytes_eq_twoBytes, flagsByte_five]
  cases s.image.lines[k.val].owner <;> rfl

/-- Records of a list of lines, looked up by line number. -/
theorem flatMap_lineBytes (s : State) (ks : List LineNo) :
    (ks.flatMap fun k => s.image.lines[k].bytes k) = (ks.map (·.val)).flatMap s.imageRecord := by
  rw [List.flatMap_map]
  exact List.flatMap_congr fun k _ => (imageRecord_line s k).symm

/-! ## The lines of a range -/

/-- The indices of a window that fits in a table are the numbers from its first on, in order. -/
theorem finRange_window_val {n first count : Nat} (h : first + count ≤ n) :
    ((List.finRange n).filter fun k => decide (first ≤ k.val ∧ k.val < first + count)).map (·.val) =
      (List.range count).map (first + ·) :=
  calc
    _ = (List.range n).filter fun x => decide (first ≤ x ∧ x < first + count) := by
      rw [← List.map_coe_finRange_eq_range, List.filter_map]
      rfl
    _ = ((List.Ico 0 n).filter (· < first + count)).filter (first ≤ ·) := by
      rw [List.Ico.zero_bot, List.filter_filter]
      simp only [Bool.decide_and]
    _ = List.Ico first (first + count) := by
      rw [List.Ico.filter_lt, List.Ico.filter_le, Nat.zero_max, Nat.min_eq_right h]
    _ = (List.range count).map (first + ·) := by
      rw [List.Ico, Nat.add_sub_cancel_left, List.range'_eq_map_range]

/-- R102: the records of a range within the 48 lines, in order of line number. -/
theorem flatMap_rangeBytes (s : State) {first count : Nat} (h : first + count ≤ 48) :
    (((List.finRange 48).filter fun k => decide (first ≤ k.val ∧ k.val < first + count)).flatMap
        fun k => s.image.lines[k].bytes k) =
      (List.range count).flatMap fun i => s.imageRecord (first + i) := by
  rw [flatMap_lineBytes, finRange_window_val h, List.flatMap_map]

/-! ## The command -/

/-- An answer that changes no block settles to the state with its bytes due, where ATTN was right. -/
theorem settle_answer {s : State} (hs : s.AttnOk) (st : Status) (bytes : List Byte) :
    settle s (s.answer st bytes) = s.responding (st.code :: bytes) :=
  settle_eq_self hs rfl rfl fun _ => rfl

/-- READ IMAGE's meaning, taken from exec. -/
theorem exec_readImage (first count : Byte) (s : State) :
    exec (.readImage first count) s = execReadImage first count s := rfl

end Sys2Proof.Machine

namespace Sys2Proof

open Machine

/-- Settles O6, by the two rows of R102: the range is outside the 48 lines, or its records are answered. -/
theorem readImageReturnsRange : Obligations.ReadImageReturnsRange := by
  intro first count s hr hs
  rw [exec_readImage, execReadImage, takeCommand_eq _ s hr]
  split_ifs with hbad
  · rw [settle_answer hs, Status.code]
  · have hfit : first.toNat + count.toNat ≤ 48 := by omega
    rw [settle_answer hs, Status.code, flatMap_rangeBytes s hfit, wordBytes_eq_twoBytes, List.cons_append]

end Sys2Proof
end

section
/-! SUPPORT. READ CONFIGURATION (R173), IDENT (R178) and STATUS (R179): the codes of 11.7.4, the entries in the words of the
statements, the entry that a section and an index name, and the answer of a command that changes no block. -/

namespace Sys2Proof.Machine

open Sys2Proof

/-! ## Codes (11.7.4) -/

theorem configurationCodes : ConfigurationCodes :=
  ⟨rfl, rfl, rfl, rfl, rfl, rfl, rfl, rfl, rfl, rfl, rfl⟩

theorem stationCodes : StationCodes :=
  ⟨rfl, rfl, rfl, rfl, rfl, rfl, rfl, rfl, rfl, rfl⟩

theorem entryCodes : EntryCodes :=
  ⟨rfl, fun e => ⟨fun h => by simp only [entryStateCode, h], fun h => by simp only [entryStateCode, h],
    fun h => by simp only [entryStateCode, h], fun o h => by simp only [entryStateCode, h]⟩⟩

/-- The code of a transmit state fits in half a byte. -/
theorem entryStateCode_lt (e : Option TransmitEntry) : (entryStateCode e).toNat < 2 ^ 4 := by
  cases e with
  | none => decide
  | some e =>
    rw [entryStateCode]
    cases e.state <;> simp

/-- The two spellings of NONE and ANY are one. -/
theorem codeOrNone_eq_optionalCode {n : Nat} (k : Option (Fin n)) : codeOrNone k = optionalCode k := by
  cases k <;> rfl

/-! ## Bytes of flags and of two halves -/

/-- A byte of one flag. -/
theorem flagsByte_one (a : Bool) : flagsByte [a] = flagByte a := by
  cases a <;> rfl

/-- A byte of two flags is its flag bits joined. -/
theorem flagsByte_two (a b : Bool) : flagsByte [a, b] = flagAt 0 a ||| flagAt 1 b := by
  cases a <;> cases b <;> rfl

/-- A byte of two halves, added and joined. -/
theorem mul_sixteen_add_eq_or (x : Byte) {y : Byte} (h : y.toNat < 2 ^ 4) : x * 16 + y = x <<< 4 ||| y := by
  have hmul : x * 16 = x <<< 4 := (BitVec.shiftLeft_eq_mul_twoPow x 4).symm
  have hdisjoint : x <<< 4 &&& y = 0 := by
    refine BitVec.eq_of_getLsbD_eq fun i _ => ?_
    rw [BitVec.getLsbD_and, BitVec.getLsbD_shiftLeft]
    by_cases hi : i < 4
    · simp [hi]
    · have hy : y.getLsbD i = false :=
        Nat.testBit_lt_two_pow (h.trans_le (Nat.pow_le_pow_right (by decide) (by omega)))
      simp [hy]
  rw [hmul, BitVec.add_eq_or_of_and_eq_zero _ _ hdisjoint]

/-! ## Entries in the words of the statements (11.7.6, 11.7.7) -/

theorem stationBytes_eq (c : StationSection) : c.bytes =
    [c.keepalive, c.holdLimit,
      flagsByte [c.discipline == .flat, c.rotate, c.hearOwn, c.reportPeers, c.attention],
      c.rankA.setWidth 8, c.rankB.setWidth 8, c.rankTransmit.setWidth 8, c.rankStation.setWidth 8,
      flagsByte [c.policyA == .keepNew, c.policyB == .keepNew], c.defaultAction.code] := by
  rw [StationSection.bytes, flagsByte_five, flagsByte_two]

theorem lineBytes_eq (k : LineNo) (c : Subscription) : c.bytes k =
    [BitVec.ofNat 8 k.val, c.role.code, flagsByte [c.trigger == .level, c.acknowledge], c.rank.setWidth 8,
      c.urgency.setWidth 8] := by
  rw [Subscription.bytes, flagsByte_two]

theorem sourceBytes_eq (i : SourceNo) (c : SourceConfig) : c.bytes i =
    [BitVec.ofNat 8 i.val, codeOrNone c.line, c.discipline.code, c.pulseFrames.setWidth 8, c.polarity.code] := by
  rw [SourceConfig.bytes, codeOrNone_eq_optionalCode]

theorem filterBytes_eq (i : FilterNo) (c : FilterEntry) : c.bytes i =
    [BitVec.ofNat 8 i.val, flagsByte [c.enabled, c.form == .pattern]] ++ wordBytes (c.first.setWidth 16) ++
      wordBytes (c.second.setWidth 16) ++ [codeOrNone c.sender, c.action.code] := by
  rw [FilterEntry.bytes, flagsByte_two, wordBytes_eq_twoBytes, wordBytes_eq_twoBytes, codeOrNone_eq_optionalCode]

theorem statusRecord_eq (s : State) : s.statusRecord =
    [s.membership.link.code, s.membership.level.code, BitVec.ofNat 8 s.membership.tally,
      BitVec.ofNat 8 s.straps.stationNumber.val, s.straps.beatRate.setWidth 8] ++ wordBytes s.image.frameNumber ++
    [BitVec.ofNat 8 s.dispatch.inService.length, BitVec.ofNat 8 ((List.finRange 52).countP s.presentable),
      BitVec.ofNat 8 s.receiver.queueA.records.length, BitVec.ofNat 8 s.receiver.queueB.records.length,
      entryStateCode s.sender.entries[0] * 16 + entryStateCode s.sender.entries[1],
      entryStateCode s.sender.entries[2] * 16 + entryStateCode s.sender.entries[3],
      flagsByte [s.membership.events.any (·.laterLost), s.config.complete],
      refusalCode s.membership.lastRefusal] := by
  rw [State.statusRecord, State.presentables, List.countP_eq_length_filter, wordBytes_eq_twoBytes, flagsByte_two,
    mul_sixteen_add_eq_or _ (entryStateCode_lt _), mul_sixteen_add_eq_or _ (entryStateCode_lt _)]

/-! ## The entry that a section and an index name (R173) -/

theorem readIndex_of_le {n : Nat} {b : Byte} (h : n ≤ b.toNat) : readIndex n b = none :=
  dif_neg (Nat.not_lt.mpr h)

/-- The byte of an index is read as that index. -/
theorem readIndex_ofNat {n : Nat} (hn : n ≤ 256) (k : Fin n) : readIndex n (BitVec.ofNat 8 k.val) = some k := by
  have hk : (BitVec.ofNat 8 k.val).toNat = k.val := by
    rw [BitVec.toNat_ofNat, Nat.mod_eq_of_lt (by omega)]
  rw [readIndex, dif_pos (hk.symm ▸ k.isLt)]
  exact congrArg some (Fin.ext hk)

section
variable (c : Configuration) (index : Byte)

theorem entryBytes_station : c.entryBytes 0 index = (readIndex 1 index).map fun _ => c.station.bytes := rfl

theorem entryBytes_line : c.entryBytes 1 index = (readIndex 48 index).map fun k => c.lines[k].bytes k := rfl

theorem entryBytes_source : c.entryBytes 2 index = (readIndex 16 index).map fun i => c.sources[i].bytes i := rfl

theorem entryBytes_filter : c.entryBytes 3 index = (readIndex 16 index).map fun i => c.filters[i].bytes i := rfl

theorem entryBytes_unassigned {sect : Byte} (h : 3 < sect.toNat) : c.entryBytes sect index = none := by
  have hne (n : Byte) (hn : n.toNat ≤ 3) : sect ≠ n := by
    rintro rfl
    omega
  rw [Configuration.entryBytes, if_neg (hne 0 (by decide)), if_neg (hne 1 (by decide)), if_neg (hne 2 (by decide)),
    if_neg (hne 3 (by decide))]

/-- R173: an unassigned section or an index out of range names no entry. -/
theorem entryBytes_eq_none {sect : Byte}
    (h : 3 < sect.toNat ∨ sect = 0 ∧ index ≠ 0 ∨ sect = 1 ∧ 47 < index.toNat ∨
      (sect = 2 ∨ sect = 3) ∧ 15 < index.toNat) : c.entryBytes sect index = none := by
  obtain hsect | ⟨rfl, hindex⟩ | ⟨rfl, hindex⟩ | ⟨rfl | rfl, hindex⟩ := h
  · exact entryBytes_unassigned c index hsect
  · have hpos : 1 ≤ index.toNat := Nat.one_le_iff_ne_zero.mpr fun h0 => hindex (BitVec.eq_of_toNat_eq h0)
    rw [entryBytes_station, readIndex_of_le hpos, Option.map_none]
  · rw [entryBytes_line, readIndex_of_le hindex, Option.map_none]
  · rw [entryBytes_source, readIndex_of_le hindex, Option.map_none]
  · rw [entryBytes_filter, readIndex_of_le hindex, Option.map_none]

end

/-! ## The commands -/

/-- A command that only answers, taken with no RESET waiting and ATTN as it should be. -/
theorem takeCommand_answer {s : State} (hr : s.port.resetTaken = false) (hs : s.AttnOk) {effect : State → State}
    {st : Status} {bytes : List Byte} (h : effect s = s.answer st bytes) :
    takeCommand effect s = .next (s.responding (st.code :: bytes)) := by
  rw [takeCommand_eq _ s hr, h, settle_answer hs]

/-- IDENT's meaning, taken from exec. -/
theorem exec_ident (s : State) : exec .ident s = execIdent s := rfl

/-- STATUS's meaning, taken from exec. -/
theorem exec_status (s : State) : exec .status s = execStatus s := rfl

/-- READ CONFIGURATION's meaning, taken from exec. -/
theorem exec_readConfiguration (sect index : Byte) (s : State) :
    exec (.readConfiguration sect index) s = execReadConfiguration sect index s := rfl

theorem exec_readConfiguration_of_some {s : State} (hr : s.port.resetTaken = false) (hs : s.AttnOk)
    {sect index : Byte} {bytes : List Byte} (h : s.config.entryBytes sect index = some bytes) :
    exec (.readConfiguration sect index) s = .next (s.responding (0x00 :: flagsByte [s.config.complete] :: bytes)) := by
  rw [exec_readConfiguration, execReadConfiguration, flagsByte_one]
  exact takeCommand_answer (st := .ok) hr hs (by rw [h])

theorem exec_readConfiguration_of_none {s : State} (hr : s.port.resetTaken = false) (hs : s.AttnOk)
    {sect index : Byte} (h : s.config.entryBytes sect index = none) :
    exec (.readConfiguration sect index) s = .next (s.responding [0x04]) := by
  rw [exec_readConfiguration, execReadConfiguration]
  exact takeCommand_answer (st := .badArg) hr hs (by rw [h])

end Sys2Proof.Machine

namespace Sys2Proof

open Machine

/-- Settles O8, by the section: the entry it names in the layout of its CONFIGURE command, or no entry. -/
theorem readConfigurationReturnsEntry : Obligations.ReadConfigurationReturnsEntry := by
  refine ⟨configurationCodes, fun s hr hs => ⟨?station, fun k => ?line, fun i => ?source, fun i => ?filter,
    fun sect index h => ?unassigned⟩⟩
  case station =>
    have hindex : readIndex 1 0 = some 0 := readIndex_ofNat (by decide) 0
    refine exec_readConfiguration_of_some hr hs ?_
    rw [entryBytes_station, hindex, Option.map_some, stationBytes_eq]
  case line =>
    refine exec_readConfiguration_of_some hr hs ?_
    rw [entryBytes_line, readIndex_ofNat (by decide) k, Option.map_some, lineBytes_eq]
  case source =>
    refine exec_readConfiguration_of_some hr hs ?_
    rw [entryBytes_source, readIndex_ofNat (by decide) i, Option.map_some, sourceBytes_eq]
  case filter =>
    refine exec_readConfiguration_of_some hr hs ?_
    rw [entryBytes_filter, readIndex_ofNat (by decide) i, Option.map_some, filterBytes_eq]
    rfl
  case unassigned => exact exec_readConfiguration_of_none hr hs (entryBytes_eq_none s.config index h)

/-- Settles O4: IDENT answers the identity record, whose part number takes two bytes. -/
theorem identReturnsFixedIdentity : Obligations.IdentReturnsFixedIdentity := by
  intro s hr hs
  have hrecord : identRecord = [0x12, 0xE0, 1, 48, 32] := by decide
  rw [exec_ident, execIdent, takeCommand_answer hr hs rfl, hrecord, Status.code]

/-- Settles O5: STATUS answers the status record, whose last byte is the code of each value of the last refusal. -/
theorem statusReportsPresentState : Obligations.StatusReportsPresentState := by
  refine ⟨stationCodes, entryCodes, fun s hr hs => ?_⟩
  rw [exec_status, execStatus, takeCommand_answer hr hs rfl, statusRecord_eq, Status.code]
  cases s.membership.lastRefusal with
  | none => rfl
  | some r => cases r <;> rfl

end Sys2Proof
end

section
/-! SUPPORT. What a step can do, said once: the kinds of change a transaction of the local port makes, the kinds of change an
event at the wires, the pins or of a count makes, and the principle that an invariant of all of them is one of every step. -/

namespace Sys2Proof.Machine

open Sys2Proof

/-! ## Transactions -/

/-- The port at the end of a transaction: closed again, or answering a status byte and response bytes. -/
def LocalPort.Ended (p : LocalPort) : Prop :=
  p = .idle ∨ ∃ (st : Status) (bytes : List Byte) (reset : Bool), p = ⟨.answering, st.code :: bytes, 0, reset⟩

/-- `Transacts s v`: a transaction other than TAKE can make `v` of the blocks of `s`; the port is left to `LocalPort.Ended`. -/
inductive Transacts (s : State) : State → Prop
  | nothing : Transacts s s
  | countsRead : Transacts s { s with receiver := {
      queueA := { s.receiver.queueA with lost := 0 }
      queueB := { s.receiver.queueB with lost := 0 } } }
  | configured (c : Configuration) (hl : s.membership.link = .detached)
      (hc : s.ConfigOk → ({ s with config := c } : State).ConfigOk) : Transacts s { s with config := c }
  | joined (hl : s.membership.link = .detached) : Transacts s s.joinTaken
  | leaves (hl : s.membership.link = .proving ∨ s.membership.link = .joined) (hm : s.line.medium = .inFrame) :
      Transacts s (s.changeLink .leaving)
  | detached : Transacts s s.enterDetached
  | finished (e : ServiceEntry) (older newer : List ServiceEntry) (he : s.dispatch.inService = older ++ e :: newer) :
      Transacts s { s with dispatch := { s.dispatch with inService := older ++ newer } }
  | handedOn (e : ServiceEntry) (older newer : List ServiceEntry) (he : s.dispatch.inService = older ++ e :: newer)
      (ho : e.orphaned = false) :
      Transacts s ({ s with dispatch := { s.dispatch with inService := older ++ newer } }.handOn e)
  | masked (d : DeliveryNo) (b : Bool) :
      Transacts s { s with dispatch := { s.dispatch with masks := s.dispatch.masks.put d b } }
  | asserted (i : SourceNo) (hl : s.membership.link.takesEdges = true) :
      Transacts s ((s.setSource i { s.sources[i] with softActive := true }).takeEdge i)
  | released (i : SourceNo) : Transacts s (s.setSource i { s.sources[i] with softActive := false })
  | posted (h : Handle) (tag : Tag) (urgency : Urgency) (data : List Byte) (hf : s.sender.entries[h] = none)
      (hd : data.length ≤ 8) : Transacts s { s with sender := s.sender.post h tag urgency data }
  | freed (h : Handle) (e : TransmitEntry) (he : s.sender.entries[h] = some e) (hw : e.state = .waiting) :
      Transacts s { s with sender := s.sender.free h }
  | cancelAsked (h : Handle) (e : TransmitEntry) (he : s.sender.entries[h] = some e)
      (hw : e.state = .contending ∨ e.state = .won) :
      Transacts s { s with sender := s.sender.setEntry h (some { e with cancelRequested := true }) }

/-- `effect` is an effect that `Transacts` and `LocalPort.Ended` tell of. -/
def IsTransaction (effect : State → State) : Prop :=
  ∀ s, ∃ v p, Transacts s v ∧ LocalPort.Ended p ∧ effect s = { v with port := p }

theorem ended_answer (v : State) (st : Status) (bytes : List Byte) : LocalPort.Ended (v.answer st bytes).port :=
  .inr ⟨st, bytes, false, rfl⟩

/-- An effect that changes blocks as `Transacts` tells and answers. -/
theorem transacts_answer {s v u : State} {st : Status} {bytes : List Byte} (hv : Transacts s v) (hu : u = v.answer st bytes) :
    ∃ v p, Transacts s v ∧ LocalPort.Ended p ∧ u = { v with port := p } :=
  ⟨v, _, hv, ended_answer v st bytes, hu⟩

/-- An effect that answers and changes no block. -/
theorem answers_only {s u : State} {st : Status} {bytes : List Byte} (hu : u = s.answer st bytes) :
    ∃ v p, Transacts s v ∧ LocalPort.Ended p ∧ u = { v with port := p } := transacts_answer .nothing hu

theorem configure_isTransaction {α : Type} (read : Option α) (write : Configuration → α → Configuration)
    (hw : ∀ (s : State) (a : α), read = some a → s.ConfigOk → ({ s with config := write s.config a } : State).ConfigOk) :
    IsTransaction (configure read write) := by
  intro s
  unfold configure
  split
  · exact answers_only rfl
  · next hl =>
    split
    · exact answers_only rfl
    · next a => exact transacts_answer (.configured _ (not_not.mp hl) (hw s a rfl)) rfl

theorem finishEntry_transacts (s : State) (e : ServiceEntry) (older newer : List ServiceEntry)
    (he : s.dispatch.inService = older ++ e :: newer) :
    ∃ v p, Transacts s v ∧ LocalPort.Ended p ∧ s.finishEntry e (older ++ newer) = { v with port := p } := by
  unfold State.finishEntry
  dsimp only
  split
  · exact transacts_answer (.finished e older newer he) rfl
  · next ho => exact transacts_answer (.handedOn e older newer he (Bool.eq_false_iff.mpr ho)) rfl

theorem setMask_isTransaction (source : Byte) (b : Bool) : IsTransaction (·.setMask source b) := by
  intro s
  unfold State.setMask
  split
  · exact answers_only rfl
  · exact transacts_answer (.masked _ b) rfl

theorem softCommand_isTransaction (soft : Byte) (effect : SourceNo → State → State)
    (he : ∀ s i, s.membership.link.takesEdges = true → Transacts s (effect i s)) :
    IsTransaction (softCommand soft effect) := by
  intro s
  unfold softCommand
  split
  · exact answers_only rfl
  · next k =>
    split
    · next hl => exact transacts_answer (he s _ hl) rfl
    · exact answers_only rfl

/-! ## What the operands read give -/

theorem readPositive_ne_zero {b v : Byte} (h : readPositive b = some v) : v ≠ 0 := by
  unfold readPositive at h
  split at h
  · exact absurd h (by simp)
  · next hb =>
    obtain rfl := Option.some.inj h
    exact hb

theorem readNibble_eq_some {b : Byte} {v : BitVec 4} (h : readNibble b = some v) : b.toNat ≤ 15 ∧ v = b.setWidth 4 := by
  unfold readNibble at h
  split at h
  · next hb => exact ⟨hb, (Option.some.inj h).symm⟩
  · exact absurd h (by simp)

/-- R170: a STATION section read has no zero interval and no zero hold limit. -/
theorem readStation_positive {k h o ra rb rt rs p d : Byte} {c : StationSection}
    (hr : readStation k h o ra rb rt rs p d = some c) : c.keepalive ≠ 0 ∧ c.holdLimit ≠ 0 := by
  simp only [readStation, Option.bind_eq_bind, Option.bind_eq_some_iff, Option.pure_def] at hr
  obtain ⟨k', hk, h', hh, o', -, ra', -, rb', -, rt', -, rs', -, p', -, d', -, hc⟩ := hr
  obtain rfl := Option.some.inj hc
  exact ⟨readPositive_ne_zero hk, readPositive_ne_zero hh⟩

/-- R77: a SOURCE entry read has a pulse count of 1 or more. -/
theorem readSource_positive {i l d p q : Byte} {c : SourceNo × SourceConfig} (hr : readSource i l d p q = some c) :
    c.2.pulseFrames ≠ 0 := by
  simp only [readSource, Option.bind_eq_bind, Option.bind_eq_some_iff, Option.pure_def] at hr
  obtain ⟨i', -, l', -, d', -, p', hp, n, hn, q', -, hc⟩ := hr
  obtain rfl := Option.some.inj hc
  obtain ⟨hle, rfl⟩ := readNibble_eq_some hn
  have hp0 := readPositive_ne_zero hp
  intro h0
  have hnat : p'.toNat = 0 := by simpa [Nat.mod_eq_of_lt (show p'.toNat < 16 by omega)] using congrArg BitVec.toNat h0
  exact hp0 (BitVec.eq_of_toNat_eq hnat)

theorem firstFree_eq_none {t : Sender} {h : Handle} (hf : t.firstFree = some h) : t.entries[h] = none := by
  simpa using List.find?_some hf

theorem readNotice_data_length {tag : Word16} {u l : Byte} {data : List Byte} {x : Tag × Urgency × List Byte}
    (h : readNotice tag u l data = some x) : x.2.2.length ≤ 8 := by
  simp only [readNotice, Option.bind_eq_bind, Option.bind_eq_some_iff, Option.pure_def] at h
  obtain ⟨tag', -, u', -, h⟩ := h
  split at h
  · next hl =>
    obtain rfl := Option.some.inj h
    simp only [postedBytes, hl, if_true, List.length_take]
    omega
  · exact absurd h (by simp)

/-! ## Every transaction -/

/-- The form of a transaction's next state: the blocks changed as `Transacts` tells, the port at an end, settled. -/
def TransactionForm (s t : State) : Prop :=
  ∃ v p, Transacts s.openTransaction v ∧ LocalPort.Ended p ∧ t = settle s.openTransaction { v with port := p }

theorem IsTransaction.form {effect : State → State} (he : IsTransaction effect) {s t : State}
    (h : takeCommand effect s = .next t) : TransactionForm s t := by
  obtain rfl := Host.Outcome.next.inj h.symm
  obtain ⟨v, p, hv, hp, hu⟩ := he s.openTransaction
  exact ⟨v, p, hv, hp, congrArg (settle s.openTransaction) hu⟩

section
variable {s t : State}

theorem execConfigureStation_form {k h o ra rb rt rs p d : Byte}
    (hx : execConfigureStation k h o ra rb rt rs p d s = .next t) : TransactionForm s t :=
  (configure_isTransaction _ _ fun _ _ hr hs =>
    ⟨(readStation_positive hr).1, (readStation_positive hr).2, hs.pulseFrames⟩).form hx

theorem execConfigureLine_form {l r o k u : Byte} (hx : execConfigureLine l r o k u s = .next t) : TransactionForm s t :=
  (configure_isTransaction _ _ fun _ _ _ hs => ⟨hs.keepalive, hs.holdLimit, hs.pulseFrames⟩).form hx

theorem execConfigureSource_form {i l d p q : Byte} (hx : execConfigureSource i l d p q s = .next t) :
    TransactionForm s t := by
  refine (configure_isTransaction _ _ fun s a hr hs => ⟨hs.keepalive, hs.holdLimit, fun i => ?_⟩).form hx
  rw [tablePut_get]
  split
  · exact readSource_positive hr
  · exact hs.pulseFrames i

theorem execConfigureFilter_form {i o : Byte} {a b : Word16} {n c : Byte}
    (hx : execConfigureFilter i o a b n c s = .next t) : TransactionForm s t :=
  (configure_isTransaction _ _ fun _ _ _ hs => ⟨hs.keepalive, hs.holdLimit, hs.pulseFrames⟩).form hx

theorem execReadConfiguration_form {a b : Byte} (hx : execReadConfiguration a b s = .next t) : TransactionForm s t := by
  refine IsTransaction.form (fun s => ?_) hx
  split <;> exact answers_only rfl

theorem execReadImage_form {a b : Byte} (hx : execReadImage a b s = .next t) : TransactionForm s t := by
  refine IsTransaction.form (fun s => ?_) hx
  split <;> exact answers_only rfl

theorem execJoin_form (hx : execJoin s = .next t) : TransactionForm s t := by
  refine IsTransaction.form (fun s => ?_) hx
  split
  · exact answers_only rfl
  · next hl =>
    split
    · exact transacts_answer (.joined (not_not.mp hl)) rfl
    · exact answers_only rfl

theorem execLeave_form (hx : execLeave s = .next t) : TransactionForm s t := by
  refine IsTransaction.form (fun s => ?_) hx
  split
  · exact answers_only rfl
  · exact answers_only rfl
  · next hl =>
    split
    · next hm => exact transacts_answer (.leaves (.inl hl) hm) rfl
    · exact transacts_answer .detached rfl
  · next hl =>
    split
    · next hm => exact transacts_answer (.leaves (.inr hl) hm) rfl
    · exact transacts_answer .detached rfl
  all_goals exact transacts_answer .detached rfl

theorem execFinishNewest_form (hx : execFinishNewest s = .next t) : TransactionForm s t := by
  refine IsTransaction.form (fun s => ?_) hx
  split
  · exact answers_only rfl
  · next e he =>
    have := finishEntry_transacts s e s.dispatch.inService.dropLast [] (List.dropLast_append_getLast? e he).symm
    rwa [List.append_nil] at this

/-- The first entry that holds a token, and the list without it. -/
theorem find?_eraseP {p : ServiceEntry → Bool} {l : List ServiceEntry} {e : ServiceEntry} (h : l.find? p = some e) :
    ∃ older newer, l = older ++ e :: newer ∧ l.eraseP p = older ++ newer := by
  obtain ⟨hp, older, newer, rfl, hn⟩ := List.find?_eq_some_iff_append.mp h
  refine ⟨older, newer, rfl, ?_⟩
  rw [List.eraseP_append_right _ (by simpa using hn), List.eraseP_cons_of_pos hp]

theorem execFinish_form {token : Byte} (hx : execFinish token s = .next t) : TransactionForm s t := by
  refine IsTransaction.form (fun s => ?_) hx
  split
  · exact answers_only rfl
  · split
    · exact answers_only rfl
    · split
      · exact answers_only rfl
      · next e he =>
        obtain ⟨older, newer, hl, hr⟩ := find?_eraseP he
        rw [hr]
        exact finishEntry_transacts s e older newer hl

theorem execPostNotice_form {tag : Word16} {u l : Byte} {data : List Byte}
    (hx : execPostNotice tag u l data s = .next t) : TransactionForm s t := by
  refine IsTransaction.form (fun s => ?_) hx
  split
  · exact answers_only rfl
  · split
    · exact answers_only rfl
    · exact answers_only rfl
    · next hn hf => exact transacts_answer (.posted _ _ _ _ (firstFree_eq_none hf) (readNotice_data_length hn)) rfl

theorem execCancelNotice_form {b : Byte} (hx : execCancelNotice b s = .next t) : TransactionForm s t := by
  refine IsTransaction.form (fun s => ?_) hx
  split
  · exact answers_only rfl
  · next h _ =>
    split
    · exact answers_only rfl
    · next e he =>
      split
      · next hw => exact transacts_answer (.freed h e he hw) rfl
      · next hw => exact transacts_answer (.cancelAsked h e he (.inl hw)) rfl
      · next hw => exact transacts_answer (.cancelAsked h e he (.inr hw)) rfl
      · exact answers_only rfl

/-- R181: RESET changes no block when it is taken. -/
theorem execReset_form (hx : execReset s = .next t) : TransactionForm s t :=
  IsTransaction.form (fun s => ⟨s, _, .nothing, .inr ⟨.ok, [], true, rfl⟩, rfl⟩) hx

/-- R176: so does a transaction cut before its command is taken, which closes the port. -/
theorem cutBeforeTaken_form
    (hx : complete s.openTransaction { s.openTransaction with port := .idle } = .next t) : TransactionForm s t :=
  IsTransaction.form (effect := fun s => { s with port := .idle }) (fun s => ⟨s, _, .nothing, .inl rfl, rfl⟩) hx

end

/-- Every command that opens a transaction, but TAKE, has the transaction's form. -/
theorem exec_transactionForm (c : Instr) (s t : State) (hc : c.opensTransaction = true) (ht : c ≠ .take)
    (h : exec c s = .next t) : TransactionForm s t := by
  cases c with
  | configureStation => exact execConfigureStation_form h
  | configureLine => exact execConfigureLine_form h
  | configureSource => exact execConfigureSource_form h
  | configureFilter => exact execConfigureFilter_form h
  | readConfiguration => exact execReadConfiguration_form h
  | join => exact execJoin_form h
  | leave => exact execLeave_form h
  | reset => exact execReset_form h
  | take => exact absurd rfl ht
  | finishNewest => exact execFinishNewest_form h
  | finish token => exact execFinish_form h
  | mask b => exact (setMask_isTransaction b true).form h
  | unmask b => exact (setMask_isTransaction b false).form h
  | assertSource b => exact (softCommand_isTransaction b _ fun _ i hl => .asserted i hl).form h
  | releaseSource b => exact (softCommand_isTransaction b _ fun _ i _ => .released i).form h
  | postNotice => exact execPostNotice_form h
  | cancelNotice => exact execCancelNotice_form h
  | readImage => exact execReadImage_form h
  | readQueues => exact IsTransaction.form (fun s => transacts_answer .countsRead rfl) h
  | ident | status | readTransmitList | readRoster | readSources | unknownCommand =>
    exact IsTransaction.form (fun s => answers_only rfl) h
  | transactionCutShort cut => cases cut with
    | inCommandByte => exact cutBeforeTaken_form h
    | inArguments => exact cutBeforeTaken_form h
    | inResponse => cases hc
    | afterResponse => cases hc
  | resetAtLpsRise | pinReset | qualifiedLevelChange | mediumQuiet | keepaliveExpired | guardPassed | openFrame
  | followOnStart | startObserved | enterBeat | roundEndedWithWinner | frameEnd | withdrawal | provingEntry | peerLost
  | pulseExpiry | holdLimitAbandon | noticeVoidedOut | followOnBeat | stopObserved | frameBrokenByStart
  | frameBrokenByStop | lateMark | mediumStuck | beatStart | beatEnd => cases hc

end Sys2Proof.Machine
end

section
/-! SUPPORT. What an event at the wires, the pins or of a count can do, and the principle that what every such change keeps is an
invariant of the step. -/

namespace Sys2Proof.Machine

open Sys2Proof

/-! ## Events -/

/-- `Events r u`: an event can make `u` of `r`, with what its guard has tested. A round's end that is still due has been carried
out in `r` (R36). -/
inductive Events (r : State) : State → Prop
  | nothing : Events r r
  | pin (p : PinNo) (l : PinLevel) : Events r (r.pinSettles p l)
  | quiet (h : r.awaitsQuiet = true) : Events r r.becomeQuiet
  | timers (k g : TimerState) : Events r { r with line := { r.line with keepaliveTimer := k, guardTimer := g } }
  | starts (own : Bool) (hm : r.line.medium = .quiet) (hl : r.membership.link.mayStart = true) : Events r (r.startFrame own)
  | enter (l : Level) (hm : r.line.medium = .inFrame) (hp : r.line.phase = .enter) : Events r (r.enterStep l)
  | frameEnd (l : Level) (hm : r.line.medium = .inFrame) (hp : r.line.phase = .verdict) : Events r (r.frameEndStep l)
  | slot (l : Level) (hm : r.line.medium = .inFrame) (hp : r.line.phase = .slots) : Events r (r.slotEnd l)
  | word (l : Level) (hm : r.line.medium = .inFrame) (hp : r.line.phase = .word) : Events r (r.wordEnd l)
  | body (l : Level) (hm : r.line.medium = .inFrame) (hp : r.line.phase = .body) : Events r (r.bodyEnd l)
  | followOn (hm : r.line.medium = .inFrame) : Events r r.followOnStep
  | closing (hm : r.line.medium = .inFrame) : Events r (r.countBeat .recessive .closed)
  | fall (hm : r.line.medium = .inFrame) : Events r r.fallSlb
  | withdraws : Events r r.withdrawIfDue
  | proving (h : r.provingDue = true) : Events r (r.becomeProving.record (.linkChanged .proving))
  | peerLost (n : StationNo) : Events r (r.losePeer n)
  | pulse (i : SourceNo) (h : r.config.sources[i].discipline = .pulse) :
      Events r (r.setSource i (r.sources[i].expirePulse r.config.sources[i]))
  | holdLimit (k : LineNo) (h : r.claims.records[k].holdDue r.holdLimit = true) :
      Events r ((r.abandonClaim k).record (.abandoned k))
  | voidedOut (h : Handle) (e : TransmitEntry) (he : r.sender.entries[h] = some e) (hd : e.voidDue = true) :
      Events r { r with sender := r.sender.done h e .voidedOut }
  | closed (hm : r.line.medium = .inFrame) : Events r r.frameClosed
  | brokenByStart (hm : r.line.medium = .inFrame) : Events r
      (if r.breakFrame.membership.link.mayStart then r.breakFrame.startFrame false else r.breakFrame)
  | brokenByStop (hm : r.line.medium = .inFrame) : Events r
      (if r.breakFrame.membership.link.mayStart then r.breakFrame.unsync else r.breakFrame)
  | lateLeaving (hl : r.membership.link = .leaving) : Events r r.enterDetached
  | lateStart (hm : r.line.medium = .inFrame) (hl : r.membership.link ≠ .leaving) : Events r (r.startFrame false)
  | lateStop (hm : r.line.medium = .inFrame) (hl : r.membership.link ≠ .leaving) : Events r r.unsync
  | stuck (h : r.stuckWatched = true) : Events r r.stall

/-- The form of the next state of an event. -/
def EventForm (s t : State) : Prop := ∃ r u, (r = s ∨ r = s.settleRound) ∧ Events r u ∧ t = settle s u

section
variable {s t u : State}

theorem EventForm.of_complete (hu : Events s u) (h : complete s u = .next t) : EventForm s t :=
  ⟨s, u, .inl rfl, hu, (Host.Outcome.next.inj h).symm⟩

/-- An event that acts on the state as it stands where its guard holds. -/
theorem EventForm.of_ite {p : Prop} [Decidable p] (hu : p → Events s u) (h : complete s (if p then u else s) = .next t) :
    EventForm s t := by
  by_cases hp : p
  · rw [if_pos hp] at h
    exact .of_complete (hu hp) h
  · rw [if_neg hp] at h
    exact .of_complete .nothing h

/-- An event that carries out a round's end first. -/
theorem EventForm.of_ite_settled {p : Prop} [Decidable p] (hu : p → Events s.settleRound u)
    (h : complete s (if p then u else s) = .next t) : EventForm s t := by
  by_cases hp : p
  · rw [if_pos hp] at h
    exact ⟨s.settleRound, u, .inr rfl, hu hp, (Host.Outcome.next.inj h).symm⟩
  · rw [if_neg hp] at h
    exact .of_complete .nothing h

theorem atPhase_iff (s : State) (p : Phase) : s.atPhase p = true ↔ s.line.medium = .inFrame ∧ s.line.phase = p := by
  simp [State.atPhase]

theorem riseSlb_events (l : Level) (h : s.mayRise = true) : Events s (s.riseSlb l) := by
  have hm : s.line.medium = .inFrame := by
    simp only [State.mayRise, Bool.and_eq_true, beq_iff_eq] at h
    exact h.1
  unfold State.riseSlb
  split
  · next hp => exact .slot l hm hp
  · next hp => exact .enter l hm hp
  · next hp => exact .word l hm hp
  · next hp => exact .body l hm hp
  · next hp => exact .frameEnd l hm hp
  · exact .followOn hm
  · exact .closing hm
  · exact .nothing
  · exact .nothing
  · exact .nothing

theorem execLateMark_form {m : MarkKind} (h : execLateMark m s = .next t) : EventForm s t := by
  refine EventForm.of_ite (fun hp => ?_) h
  have hm : s.line.medium = .inFrame := by
    simp only [State.lateInFrame, Bool.and_eq_true, beq_iff_eq] at hp
    exact hp.1
  split
  · next hl => exact .lateLeaving hl
  · next hl =>
    cases m with
    | start => exact .lateStart hm hl
    | stop => exact .lateStop hm hl

theorem breakable_medium (h : s.breakable = true) : s.settleRound.line.medium = .inFrame := by
  simp only [State.breakable, Bool.and_eq_true, beq_iff_eq] at h
  rw [settleRound_medium]
  exact h.1

theorem execNoticeVoidedOut_form {h : Handle} (hx : execNoticeVoidedOut h s = .next t) : EventForm s t := by
  refine EventForm.of_complete ?_ hx
  split
  · next e he =>
    split
    · next hd => exact .voidedOut h e he hd
    · exact .nothing
  · exact .nothing

theorem execStartObserved_form (hx : execStartObserved s = .next t) : EventForm s t := by
  refine EventForm.of_ite (fun hp => ?_) hx
  simp only [State.observesStart, Bool.and_eq_true, beq_iff_eq] at hp
  exact .starts false hp.1 hp.2

theorem execOpenFrame_form (hx : execOpenFrame s = .next t) : EventForm s t := by
  refine EventForm.of_ite (fun hp => ?_) hx
  simp only [State.mayOpen, Bool.and_eq_true, beq_iff_eq] at hp
  obtain ⟨⟨⟨hm, hl⟩, -⟩, -⟩ := hp
  exact .starts true hm hl

theorem execFollowOnStart_form (hx : execFollowOnStart s = .next t) : EventForm s t := by
  refine EventForm.of_ite (fun hp => ?_) hx
  simp only [State.mayFollowOn, Bool.and_eq_true, Bool.or_eq_true, beq_iff_eq] at hp
  obtain ⟨⟨⟨-, hm⟩, -⟩, hl⟩ := hp
  refine .starts true hm ?_
  obtain hl | hl := hl <;> rw [hl] <;> rfl

theorem execBeatStart_form (hx : execBeatStart s = .next t) : EventForm s t := by
  refine EventForm.of_ite_settled (fun hp => .fall ?_) hx
  simp only [State.mayFall, Bool.and_eq_true, beq_iff_eq] at hp
  obtain ⟨⟨⟨hm, -⟩, -⟩, -⟩ := hp
  rw [settleRound_medium]
  exact hm

theorem execMediumStuck_form (hx : execMediumStuck s = .next t) : EventForm s t := by
  refine EventForm.of_ite_settled (fun hp => .stuck ?_) hx
  rw [← hp]
  simp [State.stuckWatched]

end

/-! ## Resets -/

/-- R181, R182: the station after a reset, with what a reset does not settle: straps, key generator, the level of LPS, the model's
free index and the queue of commands. -/
def State.resetTo (straps : Straps) (key : BitVec 11) (lpsLow : Bool) (free : Nat) (queue : List Instr) : State :=
  { State.reset with
    straps, pending := queue, freeIndex := free
    membership := { Membership.reset with keyGenerator := key }
    port := .afterPinReset lpsLow }

theorem resetBlocks_eq (s : State) :
    s.resetBlocks = .resetTo s.straps s.membership.keyGenerator false s.freeIndex s.pending := rfl

/-! ## Every step -/

/-- The form of the next state of a command other than TAKE. -/
inductive CommandForm (c : Instr) (s : State) : State → Prop
  | reset (a : Straps) (k : BitVec 11) (low : Bool) (n : Nat)
      (h : s.port.resetTaken = true ∨ ∃ m r, c = .pinReset m r) : CommandForm c s (.resetTo a k low n s.pending)
  | transaction {t : State} (h : TransactionForm s t) : CommandForm c s t
  | rise (p : LocalPort) (hp : p = .idle ∨ p = s.port) : CommandForm c s (settle s { s with port := p })
  | event {t : State} (h : EventForm s t) : CommandForm c s t

theorem lpsRise_form {c : Instr} {s t : State} (h : s.lpsRise = .next t) : CommandForm c s t := by
  unfold State.lpsRise at h
  split at h
  · next hr =>
    obtain rfl := Host.Outcome.next.inj h
    rw [resetBlocks_eq]
    exact .reset _ _ _ _ (.inl hr)
  · obtain rfl := Host.Outcome.next.inj h
    exact .rise _ (.inl rfl)

theorem execResetAtLpsRise_form {c : Instr} {s t : State} (h : execResetAtLpsRise s = .next t) : CommandForm c s t := by
  unfold execResetAtLpsRise at h
  split at h
  · next hr =>
    obtain rfl := Host.Outcome.next.inj h
    rw [resetBlocks_eq]
    exact .reset _ _ _ _ (.inl hr)
  · obtain rfl := Host.Outcome.next.inj h
    split
    · exact .rise _ (.inl rfl)
    · exact .rise s.port (.inr rfl)

/-- TAKE is a transaction whose next state is settled by its own rule (R159). -/
theorem exec_take (s : State) : exec .take s = .next s.openTransaction.taken := rfl

theorem exec_form (c : Instr) (s t : State) (ht : c ≠ .take) (h : exec c s = .next t) : CommandForm c s t := by
  by_cases hc : c.opensTransaction = true
  · exact .transaction (exec_transactionForm c s t hc ht h)
  cases c with
  | transactionCutShort cut => cases cut with
    | inCommandByte => exact absurd rfl hc
    | inArguments => exact absurd rfl hc
    | inResponse => exact lpsRise_form h
    | afterResponse => exact lpsRise_form h
  | resetAtLpsRise => exact execResetAtLpsRise_form h
  | pinReset n r =>
    obtain rfl := Host.Outcome.next.inj h
    exact .reset _ _ _ _ (.inr ⟨n, r, rfl⟩)
  | qualifiedLevelChange p l => exact .event (.of_complete (.pin p l) h)
  | mediumQuiet => exact .event (.of_ite (fun hp => .quiet hp) h)
  | keepaliveExpired => exact .event (.of_ite (fun _ => .timers .reached s.line.guardTimer) h)
  | guardPassed => exact .event (.of_ite (fun _ => .timers s.line.keepaliveTimer .reached) h)
  | openFrame => exact .event (execOpenFrame_form h)
  | followOnStart => exact .event (execFollowOnStart_form h)
  | startObserved => exact .event (execStartObserved_form h)
  | enterBeat l =>
    exact .event (.of_ite_settled (fun hp => .enter l ((atPhase_iff _ _).mp hp).1 ((atPhase_iff _ _).mp hp).2) h)
  | roundEndedWithWinner =>
    exact .event ⟨s.settleRound, _, .inr rfl, .nothing, (Host.Outcome.next.inj h).symm⟩
  | frameEnd l =>
    exact .event (.of_ite_settled (fun hp => .frameEnd l ((atPhase_iff _ _).mp hp).1 ((atPhase_iff _ _).mp hp).2) h)
  | withdrawal => exact .event (.of_complete .withdraws h)
  | provingEntry => exact .event (.of_ite (fun hp => .proving hp) h)
  | peerLost n => exact .event (.of_ite (fun _ => .peerLost n) h)
  | pulseExpiry i => exact .event (.of_ite (fun hp => .pulse i hp) h)
  | holdLimitAbandon k => exact .event (.of_ite (fun hp => .holdLimit k hp) h)
  | noticeVoidedOut => exact .event (execNoticeVoidedOut_form h)
  | followOnBeat => exact .event (.of_ite (fun hp => .followOn ((atPhase_iff _ _).mp hp).1) h)
  | stopObserved => exact .event (.of_ite (fun hp => .closed hp.1) h)
  | frameBrokenByStart => exact .event (.of_ite_settled (fun hp => .brokenByStart (breakable_medium hp)) h)
  | frameBrokenByStop => exact .event (.of_ite_settled (fun hp => .brokenByStop (breakable_medium hp)) h)
  | lateMark => exact .event (execLateMark_form h)
  | mediumStuck => exact .event (execMediumStuck_form h)
  | beatStart => exact .event (execBeatStart_form h)
  | beatEnd l => exact .event (.of_ite (fun hp => riseSlb_events l hp) h)
  | ident | status | configureStation | configureLine | configureSource | configureFilter | readConfiguration | join
  | leave | reset | take | finishNewest | finish | mask | unmask | assertSource | releaseSource | postNotice
  | cancelNotice | readTransmitList | readImage | readRoster | readSources | readQueues | unknownCommand =>
    exact absurd rfl hc

/-- What it takes for `P` to be kept by every step, one field for each kind of change. -/
structure StepInvariant (P : State → Prop) : Prop where
  queue : ∀ (s : State) (cs : List Instr), P s → P { s with pending := cs }
  settled : ∀ s u : State, P u → P (settle s u)
  reset : ∀ a k low n q, P (.resetTo a k low n q)
  clock : ∀ s : State, P s → P s.clockPeriod
  take : ∀ s : State, P s → P s.taken
  transaction : ∀ (s v : State) (p : LocalPort), P s → Transacts s v → p.Ended → P { v with port := p }
  round : ∀ s : State, P s → P s.settleRound
  event : ∀ s u : State, P s → Events s u → P u

theorem StepInvariant.openTransaction {P : State → Prop} (hP : StepInvariant P) {s : State} (h : P s) :
    P s.openTransaction := by
  unfold State.openTransaction
  split
  · rw [resetBlocks_eq]
    exact hP.reset _ _ _ _ _
  · exact h

theorem StepInvariant.command {P : State → Prop} (hP : StepInvariant P) {c : Instr} {s t : State} (hs : P s)
    (h : CommandForm c s t) : P t := by
  cases h with
  | reset a k low n => exact hP.reset a k low n _
  | transaction h =>
    obtain ⟨v, p, hv, hp, rfl⟩ := h
    exact hP.settled _ _ (hP.transaction _ v p (hP.openTransaction hs) hv hp)
  | rise p hp =>
    obtain rfl | rfl := hp
    · exact hP.settled _ _ (hP.transaction s s _ hs .nothing (.inl rfl))
    · exact hP.settled _ _ hs
  | event h =>
    obtain ⟨r, u, hr, hu, rfl⟩ := h
    have hr : P r := by
      obtain rfl | rfl := hr
      · exact hs
      · exact hP.round s hs
    exact hP.settled _ _ (hP.event r u hr hu)

theorem StepInvariant.exec {P : State → Prop} (hP : StepInvariant P) {c : Instr} {s t : State} (hs : P s)
    (h : exec c s = .next t) : P t := by
  by_cases ht : c = .take
  · subst ht
    obtain rfl := Host.Outcome.next.inj ((exec_take s).symm.trans h)
    exact hP.take _ (hP.openTransaction hs)
  · exact hP.command hs (exec_form c s t ht h)

/-- The command at the front of the queue is carried out on the state with the queue's rest, or a period passes. -/
theorem step_cases {s t : State} (h : step s = .next t) :
    t = s.clockPeriod ∨ ∃ c cs, exec c { s with pending := cs } = .next t := by
  unfold step at h
  split at h
  · exact .inl (Host.Outcome.next.inj h).symm
  · next c cs _ => exact .inr ⟨c, cs, h⟩

theorem StepInvariant.step {P : State → Prop} (hP : StepInvariant P) {s t : State} (hs : P s) (h : step s = .next t) : P t := by
  obtain rfl | ⟨c, cs, h⟩ := step_cases h
  · exact hP.clock s hs
  · exact hP.exec (hP.queue s cs hs) h

/-! ## What every transaction and every event leaves alone -/

section
variable {s u v : State}

/-- The straps, the queue, and the withdrawn flag that a step settles. -/
theorem Transacts.keeps (h : Transacts s v) :
    v.pending = s.pending ∧ v.straps = s.straps ∧ v.dispatch.withdrawn = s.dispatch.withdrawn := by
  cases h with
  | detached => exact ⟨(keeps_enterDetached s).pending, (keeps_enterDetached s).straps, (keeps_enterDetached s).withdrawn⟩
  | asserted i =>
    have h := (keeps_setSource s i { s.sources[i] with softActive := true }).trans (keeps_takeEdge _ i)
    exact ⟨h.pending, h.straps, h.withdrawn⟩
  | released i => exact ⟨setSource_pending _ _ _, setSource_straps _ _ _, by rw [setSource_dispatch]⟩
  | joined =>
    unfold State.joinTaken
    dsimp only
    split <;> exact ⟨rfl, rfl, rfl⟩
  | handedOn e older newer =>
    unfold State.handOn
    split
    · split <;> exact ⟨rfl, rfl, rfl⟩
    · split <;> exact ⟨rfl, rfl, rfl⟩
    · exact ⟨rfl, rfl, rfl⟩
  | nothing | countsRead | configured | leaves | finished | masked | posted | freed | cancelAsked => exact ⟨rfl, rfl, rfl⟩

/-- R169: only a CONFIGURE command, in DETACHED, writes the configuration. -/
theorem Transacts.config (h : Transacts s v) (hl : s.membership.link ≠ .detached) : v.config = s.config := by
  cases h with
  | configured c h => exact absurd h hl
  | detached => exact (keeps_enterDetached s).config
  | asserted i => exact ((keeps_setSource s i { s.sources[i] with softActive := true }).trans (keeps_takeEdge _ i)).config
  | released i => exact setSource_config _ _ _
  | joined h => exact absurd h hl
  | handedOn e older newer =>
    unfold State.handOn
    split
    · split <;> rfl
    · split <;> rfl
    · rfl
  | nothing | countsRead | leaves | finished | masked | posted | freed | cancelAsked => rfl

theorem Events.keeps (h : Events s u) : KeepsFixed s u := by
  cases h with
  | nothing => exact .refl s
  | pin p l => exact keeps_pinSettles s p l
  | quiet => exact keeps_becomeQuiet s
  | timers => exact .of_dispatch rfl rfl rfl rfl rfl
  | starts own => exact keeps_startFrame s own
  | enter l => exact keeps_enterStep s l
  | frameEnd l => exact keeps_frameEndStep s l
  | slot l => exact keeps_slotEnd s l
  | word l => exact keeps_wordEnd s l
  | body l => exact keeps_bodyEnd s l
  | followOn => exact keeps_followOnStep s
  | closing => exact keeps_countBeat s _ _
  | fall => exact keeps_fallSlb s
  | withdraws => exact keeps_withdrawIfDue s
  | proving => exact (keeps_becomeProving s).trans (keeps_record _ _)
  | peerLost n => exact keeps_losePeer s n
  | pulse i => exact keeps_setSource s i _
  | holdLimit k => exact (keeps_abandonClaim s k).trans (keeps_record _ _)
  | voidedOut => exact .of_dispatch rfl rfl rfl rfl rfl
  | closed => exact keeps_frameClosed s
  | brokenByStart => exact .ite (fun _ => (keeps_breakFrame s).trans (keeps_startFrame _ _)) (fun _ => keeps_breakFrame s)
  | brokenByStop => exact .ite (fun _ => (keeps_breakFrame s).trans (keeps_unsync _)) (fun _ => keeps_breakFrame s)
  | lateLeaving => exact keeps_enterDetached s
  | lateStart => exact keeps_startFrame s false
  | lateStop => exact keeps_unsync s
  | stuck => exact keeps_stall s

theorem EventForm.keeps {t : State} (h : EventForm s t) : ∃ u, t = settle s u ∧ KeepsFixed s u := by
  obtain ⟨r, u, hr, hu, rfl⟩ := h
  refine ⟨u, rfl, .trans ?_ hu.keeps⟩
  obtain rfl | rfl := hr
  · exact .refl r
  · exact keeps_settleRound s

end

end Sys2Proof.Machine
end

section
/-! SUPPORT. The step and every command (chapter 11, assumptions 3, 13 and 14): each answers a next state, keeps the queue, leaves
the configuration outside DETACHED, and settles the withdrawn flag and ATTN. -/

namespace Sys2Proof.Machine

open Sys2Proof

/-- Every command answers a next state. -/
theorem exec_next (c : Instr) (s : State) : ∃ t, exec c s = .next t := by
  cases c with
  | transactionCutShort cut =>
    have rises : ∃ t, s.lpsRise = .next t := by
      unfold State.lpsRise
      split <;> exact ⟨_, rfl⟩
    cases cut with
    | inCommandByte => exact ⟨_, rfl⟩
    | inArguments => exact ⟨_, rfl⟩
    | inResponse => exact rises
    | afterResponse => exact rises
  | resetAtLpsRise =>
    show ∃ t, execResetAtLpsRise s = .next t
    unfold execResetAtLpsRise
    split <;> exact ⟨_, rfl⟩
  | _ => exact ⟨_, rfl⟩

theorem openTransaction_pending (s : State) : s.openTransaction.pending = s.pending := by
  unfold State.openTransaction
  split <;> rfl

theorem taken_pending (s : State) : s.taken.pending = s.pending := by
  have h : ∀ (u : State) (d : DeliveryNo), (u.takeFrom d).pending = u.pending := by
    intro u d
    unfold State.takeFrom
    split
    · split <;> rfl
    · rfl
    · rfl
    · split <;> rfl
    · rfl
  unfold State.taken
  split
  · rfl
  · rw [clearWithdrawn_pending, answer_pending, h]
    rfl

/-- A command leaves the commands that wait behind it. -/
theorem exec_pending {c : Instr} {s t : State} (h : exec c s = .next t) : t.pending = s.pending := by
  by_cases ht : c = .take
  · subst ht
    obtain rfl := Host.Outcome.next.inj ((exec_take s).symm.trans h)
    rw [taken_pending, openTransaction_pending]
  cases exec_form c s t ht h with
  | reset => rfl
  | transaction h =>
    obtain ⟨v, p, hv, -, rfl⟩ := h
    exact hv.keeps.1.trans (openTransaction_pending s)
  | rise => rfl
  | event h =>
    obtain ⟨u, rfl, hu⟩ := h.keeps
    exact hu.pending

/-- With no RESET waiting, a command that is neither a reset nor TAKE settles an update that leaves the withdrawn flag, and the
configuration too outside DETACHED. -/
theorem exec_settles {c : Instr} {s t : State} (hr : s.port.resetTaken = false) (hp : ∀ n r, c ≠ .pinReset n r)
    (ht : c ≠ .take) (h : exec c s = .next t) :
    ∃ u, t = settle s u ∧ u.dispatch.withdrawn = s.dispatch.withdrawn ∧
      (s.membership.link ≠ .detached → u.config = s.config) := by
  cases exec_form c s t ht h with
  | reset a k low n hx =>
    obtain hx | ⟨m, r, hx⟩ := hx
    · exact absurd (hr.symm.trans hx) Bool.false_ne_true
    · exact absurd hx (hp m r)
  | transaction h =>
    obtain ⟨v, p, hv, -, rfl⟩ := h
    rw [openTransaction_eq s hr] at hv ⊢
    exact ⟨_, rfl, hv.keeps.2.2, fun hl => hv.config hl⟩
  | rise => exact ⟨_, rfl, rfl, fun _ => rfl⟩
  | event h =>
    obtain ⟨u, rfl, hu⟩ := h.keeps
    exact ⟨u, rfl, hu.withdrawn, fun _ => hu.config⟩

theorem takeFrom_config (s : State) (d : DeliveryNo) : (s.takeFrom d).config = s.config := by
  unfold State.takeFrom
  split
  · split <;> rfl
  · rfl
  · rfl
  · split <;> rfl
  · rfl

theorem taken_config (s : State) : s.taken.config = s.config := by
  unfold State.taken
  split
  · rfl
  · exact takeFrom_config _ _

theorem taken_withdrawn (s : State) : s.taken.dispatch.withdrawn = false := by
  unfold State.taken
  split <;> rfl

/-! ## ATTN (10.3) -/

/-- After a reset no source is pending. -/
theorem resetTo_presentable (a : Straps) (k : BitVec 11) (low : Bool) (n : Nat) (q : List Instr) (d : DeliveryNo) :
    (State.resetTo a k low n q).presentable d = false := by
  have h : (State.resetTo a k low n q).sourcePending d = false := by
    unfold State.sourcePending
    split
    · next j _ =>
      have hrole : (State.resetTo a k low n q).config.lines[j] = Subscription.reset := tableOf_get _ j
      simp only [State.linePending, hrole, Subscription.reset]
    all_goals rfl
  simp only [State.presentable, h, Bool.false_and]

theorem resetTo_attnOk (a : Straps) (k : BitVec 11) (low : Bool) (n : Nat) (q : List Instr) :
    (State.resetTo a k low n q).AttnOk := by
  have h : (State.resetTo a k low n q).attentionDue = false := by
    rw [Bool.eq_false_iff, Ne, attentionDue_eq_true_iff]
    rintro ⟨-, d, hd⟩
    rw [resetTo_presentable] at hd
    exact Bool.false_ne_true hd
  exact h.symm

theorem clockPeriod_presentable (s : State) (d : DeliveryNo) : s.clockPeriod.presentable d = s.presentable d := by
  apply presentable_congr <;> simp [State.clockPeriod]

theorem clockPeriod_attnOk {s : State} (h : s.AttnOk) : s.clockPeriod.AttnOk := by
  unfold State.AttnOk State.attentionDue at *
  rw [clockPeriod_dispatch, clockPeriod_config, presentables_eq (clockPeriod_presentable s), h]

theorem taken_attnOk (s : State) : s.taken.AttnOk := by
  unfold State.taken
  split <;> rfl

theorem exec_attnOk {c : Instr} {s t : State} (h : exec c s = .next t) : t.AttnOk := by
  by_cases ht : c = .take
  · subst ht
    obtain rfl := Host.Outcome.next.inj ((exec_take s).symm.trans h)
    exact taken_attnOk _
  cases exec_form c s t ht h with
  | reset => exact resetTo_attnOk _ _ _ _ _
  | transaction h =>
    obtain ⟨v, p, -, -, rfl⟩ := h
    exact settle_attnOk _ _
  | rise => exact settle_attnOk _ _
  | event h =>
    obtain ⟨u, rfl, -⟩ := h.keeps
    exact settle_attnOk _ _

end Sys2Proof.Machine

namespace Sys2Proof

open Machine

/-- Settles O60: every command but a period of the clocks settles ATTN afresh, and a period leaves what is presentable. -/
theorem attnIsLowExactlyWhilePresentable : Obligations.AttnIsLowExactlyWhilePresentable := by
  intro s t hs h
  have ht : t.AttnOk := by
    obtain rfl | ⟨c, cs, h⟩ := step_cases h
    · exact clockPeriod_attnOk hs
    · exact exec_attnOk h
  rw [ht, attentionDue_eq_true_iff]

/-- Settles O1: the front of the queue is what the step looks at. -/
theorem stepRunsFrontCommand : Obligations.StepRunsFrontCommand := by
  intro c cs s
  rfl

/-- Settles O2, by the phase of the local port. -/
theorem emptyQueueStepAdvancesKeyGenerator : Obligations.EmptyQueueStepAdvancesKeyGenerator := by
  intro s hq
  have hstep : step s = .next s.clockPeriod := by simp only [step, hq]
  rw [hstep, State.clockPeriod, State.portPeriod]
  cases hp : s.port.phase with
  | closed =>
    by_cases hf : Config.lpsFalls s.freeIndex = true
    · simp [hf]
    · simp only [hf, if_false, reduceCtorEq, or_self, Bool.false_eq_true]
      rw [← hp]
  | waiting => simp
  | reading bits =>
    simp only [readBit, longestReading, reduceCtorEq, or_self, if_false]
    rfl
  | answering => simp [shift_eq]

/-- Settles O3. -/
theorem everyCommandCompletesAndKeepsQueue : Obligations.EveryCommandCompletesAndKeepsQueue := by
  intro c s
  obtain ⟨t, h⟩ := exec_next c s
  exact ⟨t, h, exec_pending h⟩

/-- Settles O17: what writes the configuration is a reset or a CONFIGURE command in DETACHED. -/
theorem configurationIsFrozenOutsideDetached : Obligations.ConfigurationIsFrozenOutsideDetached := by
  intro c s hr hl hp
  obtain ⟨t, h⟩ := exec_next c s
  refine ⟨t, h, ?_⟩
  by_cases ht : c = .take
  · subst ht
    obtain rfl := Host.Outcome.next.inj ((exec_take s).symm.trans h)
    rw [openTransaction_eq s hr, taken_config]
  · obtain ⟨u, rfl, -, hc⟩ := exec_settles hr hp ht h
    exact hc hl

/-- Settles O28: TAKE clears the flag by its own rule, every other command is settled by R159. -/
theorem withdrawnFlagShowsALostPresentation : Obligations.WithdrawnFlagShowsALostPresentation := by
  intro c s hr hp
  obtain ⟨t, h⟩ := exec_next c s
  refine ⟨t, h, ?_⟩
  by_cases ht : c = .take
  · subst ht
    obtain rfl := Host.Outcome.next.inj ((exec_take s).symm.trans h)
    simp [taken_withdrawn]
  · obtain ⟨u, rfl, hw, -⟩ := exec_settles hr hp ht h
    rw [settle_withdrawn_iff, hw]
    simp [ht]

end Sys2Proof
end

section
/-! SUPPORT. The blocks that a beat leaves alone, and the line controller in agreement with the link state (R1, R3, R63, R66). -/

namespace Sys2Proof.Machine

open Sys2Proof

/-! ## Beats -/

/-- A beat changes the line controller but its medium, the contention state, the error record, and the claim or notice that
contends; it leaves the rest. -/
structure BeatKeeps (s u : State) : Prop where
  config : u.config = s.config
  membership : u.membership = s.membership
  sources : u.sources = s.sources
  image : u.image = s.image
  receiver : u.receiver = s.receiver
  dispatch : u.dispatch = s.dispatch
  medium : u.line.medium = s.line.medium

theorem BeatKeeps.refl (s : State) : BeatKeeps s s := ⟨rfl, rfl, rfl, rfl, rfl, rfl, rfl⟩

theorem BeatKeeps.trans {s t u : State} (h : BeatKeeps s t) (k : BeatKeeps t u) : BeatKeeps s u :=
  ⟨k.config.trans h.config, k.membership.trans h.membership, k.sources.trans h.sources, k.image.trans h.image,
    k.receiver.trans h.receiver, k.dispatch.trans h.dispatch, k.medium.trans h.medium⟩

theorem BeatKeeps.ite {s u v : State} {c : Prop} [Decidable c] (hu : BeatKeeps s u) (hv : BeatKeeps s v) :
    BeatKeeps s (if c then u else v) := by
  split
  · exact hu
  · exact hv

theorem beat_handBackOffered (s : State) : BeatKeeps s s.handBackOffered := by
  rw [handBackOffered_eq]
  exact ⟨rfl, rfl, rfl, rfl, rfl, rfl, rfl⟩

theorem beat_driveFault (s : State) (b : Bool) : BeatKeeps s (s.driveFault b) := ⟨rfl, rfl, rfl, rfl, rfl, rfl, rfl⟩

theorem beat_countBeat (s : State) (d : Level) (p : Phase) : BeatKeeps s (s.countBeat d p) :=
  ⟨rfl, rfl, rfl, rfl, rfl, rfl, rfl⟩

theorem beat_settleRound (s : State) : BeatKeeps s s.settleRound :=
  ⟨settleRound_config s, settleRound_membership s, settleRound_sources s, settleRound_image s, settleRound_receiver s,
    settleRound_dispatch s, settleRound_medium s⟩

theorem beat_offer (s : State) (i : Option Item) : BeatKeeps s (s.offer i) := by
  unfold State.offer
  split <;> exact ⟨rfl, rfl, rfl, rfl, rfl, rfl, rfl⟩

theorem beat_enterFall (s : State) : BeatKeeps s s.enterFall :=
  (beat_offer s _).trans ⟨rfl, rfl, rfl, rfl, rfl, rfl, rfl⟩

theorem beat_enterSampled (s : State) (drove : Bool) (l : Level) : BeatKeeps s (s.enterSampled drove l) := by
  cases l with
  | dominant => exact ⟨rfl, rfl, rfl, rfl, rfl, rfl, rfl⟩
  | recessive =>
    refine .trans (.ite ((beat_driveFault s false).trans (beat_handBackOffered _)) (.refl s)) (beat_countBeat _ _ _)

theorem beat_enterStep (s : State) (l : Level) : BeatKeeps s (s.enterStep l) :=
  .trans (.ite (.refl s) (beat_enterFall s)) (beat_enterSampled _ _ _)

theorem beat_slotEnd (s : State) (l : Level) : BeatKeeps s (s.slotEnd l) := by
  refine .trans (t := { s with line := { s.line with samples := s.line.samples.store s.line.beatCount l } })
    ⟨rfl, rfl, rfl, rfl, rfl, rfl, rfl⟩ (.trans (.ite (beat_driveFault _ _) (.refl _)) (beat_countBeat _ _ _))

theorem beat_wordEnd (s : State) (l : Level) : BeatKeeps s (s.wordEnd l) := by
  unfold State.wordEnd
  dsimp only
  split_ifs <;> exact ⟨rfl, rfl, rfl, rfl, rfl, rfl, rfl⟩

theorem beat_bodyEnd (s : State) (l : Level) : BeatKeeps s (s.bodyEnd l) := by
  unfold State.bodyEnd
  dsimp only
  split_ifs <;> exact ⟨rfl, rfl, rfl, rfl, rfl, rfl, rfl⟩

theorem beat_followOnFall (s : State) : BeatKeeps s s.followOnFall := ⟨rfl, rfl, rfl, rfl, rfl, rfl, rfl⟩

theorem beat_followOnStep (s : State) : BeatKeeps s s.followOnStep :=
  .trans (.ite (c := s.line.slb = .dominant) (.refl s) (beat_followOnFall s)) (beat_countBeat _ _ _)

theorem beat_fallSlb (s : State) : BeatKeeps s s.fallSlb :=
  .ite (beat_enterFall s) (.ite (beat_followOnFall s) ⟨rfl, rfl, rfl, rfl, rfl, rfl, rfl⟩)

/-! ## States in which the line controller agrees with the link state -/

section
variable {s u : State}

/-- In a frame: a station of the frame that is not STALLED. -/
theorem lineOk_inFrame (hm : u.line.medium = .inFrame) (hl : u.membership.link.participates = true) : u.LineOk := by
  refine ⟨fun h => absurd hm h, fun h => ?_, ?_, fun h => ?_, fun _ => hm⟩
  · exfalso
    cases e : u.membership.link <;> simp_all [LinkState.participates, LinkState.lineIdle]
  · rw [hm]
    refine ⟨fun e => ?_, fun e => Medium.noConfusion e⟩
    rw [e] at hl
    exact absurd hl (by decide)
  · rw [h] at hl
    exact absurd hl (by decide)

/-- Outside a frame, with the wires released and a medium that is not stuck. -/
theorem lineOk_quiet (hw : u.line.sld = .recessive ∧ u.line.slb = .recessive ∧ u.line.phase = .noFrame)
    (hm : u.line.medium = .unsynced ∨ u.line.medium = .quiet ∧ u.membership.link.lineIdle = false)
    (hs : u.membership.link ≠ .stalled) (hl : u.membership.link ≠ .leaving) : u.LineOk := by
  refine ⟨fun _ => hw, fun h => ?_, ⟨fun h => absurd h hs, fun h => ?_⟩, fun h => absurd h hs, fun h => absurd h hl⟩
  · obtain hm | ⟨-, hi⟩ := hm
    · exact hm
    · exact absurd (hi.symm.trans h) Bool.false_ne_true
  · obtain hm | ⟨hm, -⟩ := hm <;> rw [hm] at h <;> cases h

/-- The agreement looks at link state, remembered state and line controller. -/
theorem lineOk_congr (h : s.LineOk) (hk : u.membership.link = s.membership.link)
    (hr : u.membership.remembered = s.membership.remembered) (hl : u.line = s.line) : u.LineOk := by
  obtain ⟨h1, h2, h3, h4, h5⟩ := h
  constructor <;> simp only [hk, hr, hl] <;> assumption

/-- It does not look at the event queue. -/
theorem lineOk_record (h : s.LineOk) (e : StationEvent) : (s.record e).LineOk := lineOk_congr h rfl rfl rfl

theorem lineOk_recordGroups (h : s.LineOk) (m c : List StationEvent) : (s.recordGroups m c).LineOk := by
  rw [recordGroups_eq]
  exact lineOk_congr h rfl rfl rfl

/-- A station in a frame takes part in it. -/
theorem State.LineOk.participates (h : s.LineOk) (hm : s.line.medium = .inFrame) : s.membership.link.participates = true := by
  have hi : s.membership.link.lineIdle ≠ true := fun e => by
    have := h.idle e
    rw [hm] at this
    cases this
  have hs : s.membership.link ≠ .stalled := fun e => by
    have := h.stalled.mp e
    rw [hm] at this
    cases this
  cases e : s.membership.link <;> simp_all [LinkState.participates, LinkState.lineIdle]

theorem mayStart_participates {l : LinkState} (h : l.mayStart = true) : l.participates = true ∧ l ≠ .leaving ∧ l ≠ .stalled := by
  cases l <;> simp_all [LinkState.mayStart, LinkState.participates]

/-- A beat in a frame. -/
theorem lineOk_beat (h : s.LineOk) (hm : s.line.medium = .inFrame) (hb : BeatKeeps s u) : u.LineOk :=
  lineOk_inFrame (hb.medium.trans hm) (by rw [hb.membership]; exact h.participates hm)

end

/-! ## The operations -/

theorem lineOk_enterDetached (s : State) : s.enterDetached.LineOk := by
  rw [enterDetached_eq]
  refine lineOk_quiet ⟨rfl, rfl, rfl⟩ (.inl rfl) ?_ ?_ <;> exact LinkState.noConfusion

theorem lineOk_enterWithdrawn (s : State) : s.enterWithdrawn.LineOk := by
  rw [enterWithdrawn_eq]
  refine lineOk_quiet ⟨rfl, rfl, rfl⟩ (.inl rfl) ?_ ?_ <;> exact LinkState.noConfusion

theorem lineOk_withdrawIfDue {s : State} (h : s.LineOk) : s.withdrawIfDue.LineOk := by
  unfold State.withdrawIfDue
  split
  · exact lineOk_enterWithdrawn s
  · exact h

theorem lineOk_settleRound {s : State} (h : s.LineOk) : s.settleRound.LineOk := by
  by_cases hd : s.roundDue = true
  · have hm : s.line.medium = .inFrame := by
      simp only [State.roundDue, Bool.and_eq_true, beq_iff_eq] at hd
      exact hd.1
    exact lineOk_beat h hm (beat_settleRound s)
  · rw [State.settleRound, if_neg hd]
    exact h

theorem lineOk_startFrame {s : State} (own : Bool) (h : s.membership.link.participates = true) : (s.startFrame own).LineOk :=
  lineOk_inFrame rfl h

theorem lineOk_unsync {s : State} (hs : s.membership.link ≠ .stalled) (hl : s.membership.link ≠ .leaving) : s.unsync.LineOk :=
  lineOk_quiet ⟨rfl, rfl, rfl⟩ (.inl rfl) hs hl

/-- R4, R67: a station that awaits QUIET is not LEAVING, and one that was STALLED remembers its state. -/
theorem lineOk_becomeQuiet {s : State} (h : s.LineOk) (ha : s.awaitsQuiet = true) : s.becomeQuiet.LineOk := by
  simp only [State.awaitsQuiet, Bool.and_eq_true, Bool.not_eq_true', Bool.or_eq_true, beq_iff_eq] at ha
  obtain ⟨hi, hm⟩ := ha
  have hf : s.line.medium ≠ .inFrame := by obtain hm | hm := hm <;> rw [hm] <;> exact Medium.noConfusion
  unfold State.becomeQuiet
  dsimp only
  split
  · next hs =>
    obtain ⟨r, hr⟩ := Option.isSome_iff_exists.mp (h.remembers hs)
    simp only [State.stallReturn, hr]
    refine lineOk_record (lineOk_quiet (by exact h.quietWires hf) (.inr (by exact ⟨rfl, by cases r <;> rfl⟩)) ?_ ?_) _ <;>
      cases r <;> exact LinkState.noConfusion
  · next hs =>
    exact lineOk_quiet (by exact h.quietWires hf) (.inr (by exact ⟨rfl, hi⟩)) hs fun e => hf (h.leaving e)

theorem lineOk_frameClosed {s : State} (h : s.LineOk) (hm : s.line.medium = .inFrame) : s.frameClosed.LineOk := by
  unfold State.frameClosed
  dsimp only
  split
  · exact lineOk_enterDetached _
  · next hl =>
    have hp := h.participates hm
    refine lineOk_quiet ⟨rfl, rfl, rfl⟩ (.inr ⟨rfl, ?_⟩) ?_ hl <;> dsimp only <;>
      cases e : s.membership.link <;> simp_all [LinkState.participates, LinkState.lineIdle]

/-- R66: a station whose medium gets stuck is in a state to remember, or LEAVING. -/
theorem lineOk_stall {s : State} (h : s.LineOk) (hw : s.stuckWatched = true) : s.stall.LineOk := by
  simp only [State.stuckWatched, Bool.and_eq_true, Bool.not_eq_true', bne_iff_ne, ne_eq] at hw
  obtain ⟨hi, hm⟩ := hw
  have hs : s.membership.link ≠ .stalled := fun e => hm (h.stalled.mp e)
  have hl : s.dropStuck.handBackOffered.membership.link = s.membership.link := by
    rw [(beat_handBackOffered _).membership]
    rfl
  unfold State.stall
  dsimp only
  rw [hl]
  split
  · refine lineOk_record ⟨fun _ => ⟨rfl, rfl, rfl⟩, fun e => ?_, ⟨fun _ => rfl, fun _ => rfl⟩, fun _ => rfl, fun e => ?_⟩ _
    · exact absurd (show LinkState.stalled.lineIdle = true from e) (by decide)
    · exact absurd (show LinkState.stalled = .leaving from e) (by decide)
  · next hr =>
    split
    · exact lineOk_enterDetached _
    · exfalso
      cases e : s.membership.link <;> simp_all [LinkState.remember, LinkState.lineIdle]

/-! ## The ends of a frame -/

theorem setTally_link (s : State) (t : Nat) : (s.setTally t).membership.link = s.membership.link := by rw [setTally_eq]

theorem setTally_line (s : State) (t : Nat) : (s.setTally t).line = s.line := by rw [setTally_eq]

theorem dropFrame_line (s : State) : s.dropFrame.line = s.line := by unfold State.dropFrame; rfl

theorem dropFrame_membership (s : State) : s.dropFrame.membership = s.membership := by unfold State.dropFrame; rfl

theorem lineOk_breakFrame {s : State} (h : s.LineOk) (hm : s.line.medium = .inFrame) : s.breakFrame.LineOk := by
  unfold State.breakFrame
  dsimp only
  split
  · exact lineOk_enterDetached _
  · refine lineOk_withdrawIfDue (lineOk_inFrame ?_ ?_)
    · rw [(beat_handBackOffered _).medium, dropFrame_line, setTally_line]
      exact hm
    · rw [(beat_handBackOffered _).membership, dropFrame_membership, setTally_link]
      exact h.participates hm

/-- R58 to R62: the link decision of an accepted frame leaves a station of the frame, or one that is DETACHED. -/
theorem lineOk_applyLink {s : State} (v : LinkVerdict) (m c : List StationEvent) (hm : s.line.medium = .inFrame)
    (hl : s.membership.link.participates = true) : (s.applyLink v m c).LineOk := by
  cases v with
  | stays => exact lineOk_recordGroups (lineOk_inFrame hm hl) m c
  | joins => exact lineOk_recordGroups (lineOk_inFrame (by exact hm) (by rfl)) _ c
  | counts =>
    unfold State.applyLink
    dsimp only
    split
    · exact lineOk_recordGroups (lineOk_inFrame (by exact hm) (by rfl)) _ c
    · exact lineOk_recordGroups (lineOk_inFrame (by exact hm) (by exact hl)) m c
  | refused r =>
    rw [applyLink_refused]
    refine lineOk_recordGroups (lineOk_quiet ⟨rfl, rfl, rfl⟩ (.inl rfl) ?_ ?_) _ _ <;> exact LinkState.noConfusion

theorem abandonAll_line (l : List LineNo) (s : State) : (l.foldl State.abandonClaim s).line = s.line := by
  rw [abandonAll_eq]

theorem abandonAll_membership (l : List LineNo) (s : State) : (l.foldl State.abandonClaim s).membership = s.membership := by
  rw [abandonAll_eq]

theorem acceptBlocks_line (s : State) : s.acceptBlocks.line = { s.line with lastAcceptedPlan := s.line.plan } := by
  dsimp only [State.acceptBlocks]

theorem lineOk_acceptFrame {s : State} (hm : s.line.medium = .inFrame) (hl : s.membership.link.participates = true) :
    s.acceptFrame.LineOk := by
  unfold State.acceptFrame
  dsimp only
  refine lineOk_applyLink _ _ _ ?_ ?_
  · rw [abandonAll_line, acceptBlocks_line]
    exact hm
  · rw [abandonAll_membership, (acceptBlocks_ranges s).2.1]
    exact hl

theorem lineOk_applyFrame {s : State} (o : FrameOutcome) (hm : s.line.medium = .inFrame)
    (hl : s.membership.link.participates = true) : (s.applyFrame o).LineOk := by
  have dropped : s.dropFrame.LineOk := by
    refine lineOk_inFrame ?_ ?_
    · rw [dropFrame_line]
      exact hm
    · rw [dropFrame_membership]
      exact hl
  cases o with
  | accepted => exact lineOk_acceptFrame hm hl
  | voided => exact dropped
  | locallyDiscarded => exact dropped

theorem settleVerdict_line (s : State) (o : FrameOutcome) (d : Bool) : (s.settleVerdict o d).line = s.line := by
  unfold State.settleVerdict
  rw [setTally_line]
  split <;> rfl

theorem settleVerdict_link (s : State) (o : FrameOutcome) (d : Bool) :
    (s.settleVerdict o d).membership.link = s.membership.link := by
  unfold State.settleVerdict
  rw [setTally_link]
  split <;> rfl

theorem lineOk_frameEndStep {s : State} (l : Level) (h : s.LineOk) (hm : s.line.medium = .inFrame) :
    (s.frameEndStep l).LineOk := by
  rw [frameEndStep_eq]
  refine lineOk_withdrawIfDue (lineOk_applyFrame _ ?_ ?_)
  · rw [settleVerdict_line]
    exact hm
  · rw [settleVerdict_link]
    exact h.participates hm

theorem takeEdge_others (s : State) (i : SourceNo) :
    (s.takeEdge i).membership = s.membership ∧ (s.takeEdge i).line = s.line := by
  unfold State.takeEdge
  split
  · exact ⟨setSource_membership _ _ _, setSource_line _ _ _⟩
  · exact ⟨rfl, rfl⟩

theorem pinSettles_others (s : State) (p : PinNo) (l : PinLevel) :
    (s.pinSettles p l).membership = s.membership ∧ (s.pinSettles p l).line = s.line := by
  unfold State.pinSettles
  dsimp only
  split
  · rw [(takeEdge_others _ _).1, (takeEdge_others _ _).2]
    exact ⟨setSource_membership _ _ _, setSource_line _ _ _⟩
  · exact ⟨setSource_membership _ _ _, setSource_line _ _ _⟩

/-- R70 to R72, R96: a station lost as one update: its entry, its lines' owner, and its event where losses are reported. -/
theorem losePeer_eq (s : State) (n : StationNo) : s.losePeer n = { s with
    membership := { s.membership with
      roster := s.membership.roster.put n .absent
      events := if s.config.station.reportPeers && !s.membership.rosterBaseline then
        appendEvent s.membership.events ⟨.peerLost n, s.image.frameNumber, false⟩ else s.membership.events }
    image := { s.image with lines := Table.of fun k =>
      { s.image.lines[k] with owner := removeOwner (· == n) s.image.lines[k].held s.image.lines[k].owner } } } := by
  unfold State.losePeer
  dsimp only
  split
  · dsimp only [State.record]
  · rfl

theorem lineOk_events {s u : State} (h : s.LineOk) (hu : Events s u) : u.LineOk := by
  have same {v : State} (hk : v.membership.link = s.membership.link)
      (hr : v.membership.remembered = s.membership.remembered) (hl : v.line = s.line) : v.LineOk := lineOk_congr h hk hr hl
  cases hu with
  | nothing => exact h
  | pin p l => 
    obtain ⟨hm, hl⟩ := pinSettles_others s p l
    exact same (by rw [hm]) (by rw [hm]) hl
  | quiet ha => exact lineOk_becomeQuiet h ha
  | timers => exact ⟨h.quietWires, h.idle, h.stalled, h.remembers, h.leaving⟩
  | starts own _ hl => exact lineOk_startFrame own (mayStart_participates hl).1
  | enter l hm => exact lineOk_beat h hm (beat_enterStep s l)
  | frameEnd l hm => exact lineOk_frameEndStep l h hm
  | slot l hm => exact lineOk_beat h hm (beat_slotEnd s l)
  | word l hm => exact lineOk_beat h hm (beat_wordEnd s l)
  | body l hm => exact lineOk_beat h hm (beat_bodyEnd s l)
  | followOn hm => exact lineOk_beat h hm (beat_followOnStep s)
  | closing hm => exact lineOk_beat h hm (beat_countBeat s _ _)
  | fall hm => exact lineOk_beat h hm (beat_fallSlb s)
  | withdraws => exact lineOk_withdrawIfDue h
  | proving hp =>
    simp only [State.provingDue, Bool.and_eq_true, beq_iff_eq] at hp
    have hs : s.line.medium ≠ .stalled := fun e => by
      have := h.stalled.mpr e
      rw [hp.1] at this
      cases this
    refine lineOk_record (s := s.becomeProving)
      ⟨h.quietWires, fun e => ?_, ⟨fun e => ?_, fun e => absurd e hs⟩, fun e => ?_, fun e => ?_⟩ _
    · exact absurd (show LinkState.proving.lineIdle = true from e) (by decide)
    · exact absurd (show LinkState.proving = .stalled from e) (by decide)
    · exact absurd (show LinkState.proving = .stalled from e) (by decide)
    · exact absurd (show LinkState.proving = .leaving from e) (by decide)
  | peerLost n =>
    rw [losePeer_eq]
    exact same rfl rfl rfl
  | pulse i => exact same (by rw [setSource_membership]) (by rw [setSource_membership]) (setSource_line _ _ _)
  | holdLimit k => 
    exact lineOk_record (same (by rw [abandonClaim_membership]) (by rw [abandonClaim_membership]) (abandonClaim_line s k)) _
  | voidedOut => exact same rfl rfl rfl
  | closed hm => exact lineOk_frameClosed h hm
  | brokenByStart hm =>
    split
    · next hl => exact lineOk_startFrame false (mayStart_participates hl).1
    · exact lineOk_breakFrame h hm
  | brokenByStop hm =>
    split
    · next hl => exact lineOk_unsync (mayStart_participates hl).2.2 (mayStart_participates hl).2.1
    · exact lineOk_breakFrame h hm
  | lateLeaving => exact lineOk_enterDetached s
  | lateStart hm => exact lineOk_startFrame false (h.participates hm)
  | lateStop hm hl =>
    refine lineOk_unsync (fun e => ?_) hl
    have := h.stalled.mp e
    rw [hm] at this
    cases this
  | stuck hw => exact lineOk_stall h hw

/-! ## Transactions -/

theorem joinTaken_line (s : State) : s.joinTaken.LineOk := by
  unfold State.joinTaken
  dsimp only
  split
  · exact lineOk_record (lineOk_quiet ⟨rfl, rfl, rfl⟩ (.inl rfl) (by exact LinkState.noConfusion)
      (by exact LinkState.noConfusion)) _
  · exact lineOk_record (lineOk_record (lineOk_quiet ⟨rfl, rfl, rfl⟩ (.inl rfl) (by exact LinkState.noConfusion)
      (by exact LinkState.noConfusion)) _) _

theorem handOn_others (s : State) (e : ServiceEntry) : s.handOn e = { s with claims := (s.handOn e).claims } := by
  unfold State.handOn
  split
  · split <;> rfl
  · split <;> rfl
  · rfl

theorem lineOk_transacts {s v : State} (h : s.LineOk) (hv : Transacts s v) : v.LineOk := by
  cases hv with
  | joined => exact joinTaken_line s
  | leaves hl hm => exact lineOk_record (lineOk_inFrame (by exact hm) (by rfl)) _
  | detached => exact lineOk_enterDetached s
  | handedOn e older newer =>
    rw [handOn_others]
    exact lineOk_congr h rfl rfl rfl
  | asserted i =>
    have hm := (takeEdge_others (s.setSource i { s.sources[i] with softActive := true }) i).1
    have hl := (takeEdge_others (s.setSource i { s.sources[i] with softActive := true }) i).2
    rw [setSource_membership] at hm
    rw [setSource_line] at hl
    exact lineOk_congr h (by rw [hm]) (by rw [hm]) hl
  | released i => exact lineOk_congr h rfl rfl rfl
  | nothing | countsRead | configured | finished | masked | posted | freed | cancelAsked =>
    exact lineOk_congr h rfl rfl rfl

/-- TAKE leaves the line controller alone, and of the membership unit takes events only. -/
theorem taken_others (s : State) : s.taken.line = s.line ∧
    s.taken.membership = { s.membership with events := s.taken.membership.events } := by
  have h : ∀ (u : State) (d : DeliveryNo), (u.takeFrom d).line = u.line ∧
      (u.takeFrom d).membership = { u.membership with events := (u.takeFrom d).membership.events } := by
    intro u d
    unfold State.takeFrom
    split
    · split <;> exact ⟨rfl, rfl⟩
    · exact ⟨rfl, rfl⟩
    · exact ⟨rfl, rfl⟩
    · split <;> exact ⟨rfl, rfl⟩
    · exact ⟨rfl, rfl⟩
  unfold State.taken
  split
  · exact ⟨rfl, rfl⟩
  · exact h _ _

theorem lineOk_invariant : StepInvariant State.LineOk where
  queue _ _ h := lineOk_congr h rfl rfl rfl
  settled _ _ h := lineOk_congr h rfl rfl rfl
  reset _ _ _ _ _ := lineOk_quiet ⟨rfl, rfl, rfl⟩ (.inl rfl) LinkState.noConfusion LinkState.noConfusion
  clock s h := lineOk_congr h rfl rfl (clockPeriod_line s)
  take s h := lineOk_congr h (by rw [(taken_others s).2]) (by rw [(taken_others s).2]) (taken_others s).1
  transaction _ _ _ h hv _ := lineOk_congr (lineOk_transacts h hv) rfl rfl rfl
  round _ h := lineOk_settleRound h
  event _ _ h hu := lineOk_events h hu

end Sys2Proof.Machine

namespace Sys2Proof

open Machine

/-- Settles O58: the agreement is kept by every kind of change a step can make. -/
theorem stepKeepsLineInAgreementWithLinkState : Obligations.StepKeepsLineInAgreementWithLinkState :=
  fun _ _ hs h => lineOk_invariant.step hs h

end Sys2Proof
end

section
/-! SUPPORT. The transmit list in order (R124, R125, R129 to R131): what each operation of the notice sender keeps. -/

namespace Sys2Proof.Machine

open Sys2Proof

/-! ## The transmit list in order -/

/-- `State.TransmitOk`, said of the notice sender alone. -/
structure Sender.InOrder (t : Sender) : Prop where
  posting : ∀ h : Handle, h ∈ t.posting ↔ entryPosted t.entries[h] = true
  reports : ∀ h : Handle, h ∈ t.reports ↔ entryDone t.entries[h] = true
  postingOnce : t.posting.Nodup
  reportsOnce : t.reports.Nodup
  lengths : ∀ (h : Handle) (e : TransmitEntry), t.entries[h] = some e → e.data.length ≤ 8
  voids : ∀ (h : Handle) (e : TransmitEntry), t.entries[h] = some e →
    e.voidCount ≤ 8 ∧ (entryPosted (some e) = true → e.voidCount ≤ 7)
  uncancelled : ∀ (h : Handle) (e : TransmitEntry), t.entries[h] = some e → e.state = .waiting → e.cancelRequested = false

theorem transmitOk_iff (s : State) : s.TransmitOk ↔ s.sender.InOrder :=
  ⟨fun ⟨h1, h2, h3, h4, h5, h6, h7⟩ => ⟨h1, h2, h3, h4, h5, h6, h7⟩,
    fun ⟨h1, h2, h3, h4, h5, h6, h7⟩ => ⟨h1, h2, h3, h4, h5, h6, h7⟩⟩

theorem entryPosted_some (e : TransmitEntry) : entryPosted (some e) = !e.state.isDone := by
  cases h : e.state <;> simp [entryPosted, EntryState.isDone, h]

theorem entryDone_some (e : TransmitEntry) : entryDone (some e) = e.state.isDone := by
  cases h : e.state <;> simp [entryDone, EntryState.isDone, h]

/-- What stands in one entry whatever the lists say of it. -/
structure TransmitEntry.InRange (e : TransmitEntry) : Prop where
  length : e.data.length ≤ 8
  voids : e.voidCount ≤ 8 ∧ (entryPosted (some e) = true → e.voidCount ≤ 7)
  uncancelled : e.state = .waiting → e.cancelRequested = false

section
variable {t : Sender} {h : Handle} {e e' : TransmitEntry}

theorem Sender.InOrder.entry (ht : t.InOrder) (he : t.entries[h] = some e) : e.InRange :=
  ⟨ht.lengths h e he, ht.voids h e he, ht.uncancelled h e he⟩

/-- A list is in order when its entries are in range and its two orders hold what they should, each handle once. -/
theorem Sender.InOrder.ofEntries (hp : ∀ h : Handle, h ∈ t.posting ↔ entryPosted t.entries[h] = true)
    (hr : ∀ h : Handle, h ∈ t.reports ↔ entryDone t.entries[h] = true) (hp' : t.posting.Nodup) (hr' : t.reports.Nodup)
    (he : ∀ (h : Handle) (e : TransmitEntry), t.entries[h] = some e → e.InRange) : t.InOrder :=
  ⟨hp, hr, hp', hr', fun h e x => (he h e x).length, fun h e x => (he h e x).voids, fun h e x => (he h e x).uncancelled⟩

/-- Entries after one is written: the one written, or one of before. -/
theorem put_some_inRange {x : Option TransmitEntry} (ht : t.InOrder) (hx : ∀ e, x = some e → e.InRange) (g : Handle)
    (e : TransmitEntry) (hg : (t.entries.put h x)[g] = some e) : e.InRange := by
  rw [tablePut_get] at hg
  split at hg
  · exact hx e hg
  · exact ht.entry hg

/-- A posted entry written as another posted one. -/
theorem inOrder_put_posted (ht : t.InOrder) (he : t.entries[h] = some e) (hp : e.state.isDone = false)
    (hp' : e'.state.isDone = false) (hr : e'.InRange) : Sender.InOrder { t with entries := t.entries.put h (some e') } := by
  refine .ofEntries (fun g => ?_) (fun g => ?_) ht.postingOnce ht.reportsOnce
    (put_some_inRange ht fun e h => Option.some.inj h ▸ hr)
  · rw [ht.posting, tablePut_get]
    split
    · next hg => rw [hg, he, entryPosted_some, entryPosted_some, hp, hp']
    · rfl
  · rw [ht.reports, tablePut_get]
    split
    · next hg => rw [hg, he, entryDone_some, entryDone_some, hp, hp']
    · rfl

/-- R131: a posted entry that becomes DONE leaves the posting order and joins the report order. -/
theorem inOrder_done (ht : t.InOrder) (he : t.entries[h] = some e) (hp : e.state.isDone = false)
    (hp' : e'.state.isDone = true) (hr : e'.InRange) :
    Sender.InOrder ⟨t.entries.put h (some e'), t.posting.filter (· ≠ h), t.reports ++ [h]⟩ := by
  have hnot : h ∉ t.reports := by rw [ht.reports, he, entryDone_some, hp]; exact Bool.false_ne_true
  refine .ofEntries (fun g => ?_) (fun g => ?_) (ht.postingOnce.filter _) ?_
    (put_some_inRange ht fun e h => Option.some.inj h ▸ hr)
  · rw [tablePut_get, List.mem_filter, ht.posting]
    by_cases hg : g = h
    · simp [hg, entryPosted_some, hp']
    · simp [hg]
  · rw [tablePut_get, List.mem_append, ht.reports, List.mem_singleton]
    by_cases hg : g = h
    · simp [hg, entryDone_some, hp']
    · simp [hg]
  · exact ht.reportsOnce.append (List.nodup_singleton h) (by simpa using hnot)

/-- R130: a posted entry freed leaves the posting order. -/
theorem inOrder_free (ht : t.InOrder) (he : t.entries[h] = some e) (hp : e.state.isDone = false) : (t.free h).InOrder := by
  have hnot : h ∉ t.reports := by rw [ht.reports, he, entryDone_some, hp]; exact Bool.false_ne_true
  refine .ofEntries (fun g => ?_) (fun g => ?_) (ht.postingOnce.filter _) ht.reportsOnce
    (put_some_inRange ht fun e h => nomatch h)
  · rw [Sender.free, tablePut_get, List.mem_filter, ht.posting]
    by_cases hg : g = h
    · simp [hg, entryPosted]
    · simp [hg]
  · rw [Sender.free, tablePut_get]
    by_cases hg : g = h
    · simp [hg, entryDone, hnot]
    · simp only [hg, if_false, ht.reports]

/-- R126: a FREE entry filled as WAITING stands last in the posting order. -/
theorem inOrder_post (ht : t.InOrder) (he : t.entries[h] = none) (tag : Tag) (urgency : Urgency) (data : List Byte)
    (hd : data.length ≤ 8) : (t.post h tag urgency data).InOrder := by
  have hp : h ∉ t.posting := by rw [ht.posting, he]; exact Bool.false_ne_true
  have hr : h ∉ t.reports := by rw [ht.reports, he]; exact Bool.false_ne_true
  refine .ofEntries (fun g => ?_) (fun g => ?_) ?_ ht.reportsOnce
    (put_some_inRange ht fun e h => Option.some.inj h ▸ ⟨hd, ⟨Nat.zero_le _, fun _ => Nat.zero_le _⟩, fun _ => rfl⟩)
  · rw [Sender.post, tablePut_get, List.mem_append, ht.posting, List.mem_singleton]
    by_cases hg : g = h
    · simp [hg, entryPosted]
    · simp [hg]
  · rw [Sender.post, tablePut_get]
    by_cases hg : g = h
    · simp [hg, entryDone, hr]
    · simp only [hg, if_false, ht.reports]
  · exact ht.postingOnce.append (List.nodup_singleton h) (by simpa using hp)

/-- R162: a report taken frees its entry. -/
theorem inOrder_reportTaken {hs : List Handle} (ht : t.InOrder) (hr : t.reports = h :: hs) :
    Sender.InOrder { t with entries := t.entries.put h none, reports := hs } := by
  have hd : entryDone t.entries[h] = true := by rw [← ht.reports, hr]; exact List.mem_cons_self
  have hn := ht.reportsOnce
  rw [hr, List.nodup_cons] at hn
  have hp : h ∉ t.posting := by
    rw [ht.posting]
    cases he : t.entries[h] with
    | none => exact Bool.false_ne_true
    | some e =>
      rw [he, entryDone_some] at hd
      rw [entryPosted_some, hd]
      exact Bool.false_ne_true
  refine .ofEntries (fun g => ?_) (fun g => ?_) ht.postingOnce hn.2 (put_some_inRange ht fun e h => nomatch h)
  · rw [tablePut_get]
    by_cases hg : g = h
    · simp [hg, entryPosted, hp]
    · simp only [hg, if_false, ht.posting]
  · rw [tablePut_get]
    by_cases hg : g = h
    · simp [hg, entryDone, hn.1]
    · have := ht.reports g
      rw [hr, List.mem_cons] at this
      simpa [hg] using this

end

/-! ## The settling operations -/

section
variable {op : Sender → Handle → Sender} {from_ : EntryState} {f : TransmitEntry → TransmitEntry}

theorem Settles.inOrder (hop : Settles op from_ f) (hd : from_.isDone = false)
    (hf : ∀ e : TransmitEntry, e.state = from_ → e.InRange → (f e).InRange) {t : Sender} (ht : t.InOrder) (h : Handle) :
    (op t h).InOrder := by
  cases he : t.entries[h] with
  | none =>
    rw [hop.free t h he]
    exact ht
  | some e =>
    by_cases hs : e.state = from_
    · have hr := hf e hs (ht.entry he)
      have hp : e.state.isDone = false := hs ▸ hd
      by_cases hfe : (f e).state.isDone = true
      · obtain ⟨o, ho⟩ := isDone_eq_true.mp hfe
        rw [hop.done t h e o he hs ho]
        exact inOrder_done ht he hp hfe hr
      · rw [hop.kept t h e he hs (by simpa [isDone_eq_true] using hfe)]
        exact inOrder_put_posted ht he hp (Bool.eq_false_iff.mpr hfe) hr
    · rw [hop.same t h e he hs]
      exact ht

theorem Settles.inOrder_foldl (hop : Settles op from_ f) (hd : from_.isDone = false)
    (hf : ∀ e : TransmitEntry, e.state = from_ → e.InRange → (f e).InRange) (l : List Handle) {t : Sender} (ht : t.InOrder) :
    (l.foldl op t).InOrder := by
  induction l generalizing t with
  | nil => exact ht
  | cons h l ih => exact ih (hop.inOrder hd hf ht h)

end

theorem inOrder_settleSent (l : List Handle) {t : Sender} (ht : t.InOrder) : (l.foldl Sender.settleSent t).InOrder :=
  settleSent_settles.inOrder_foldl rfl
    (fun _ _ hr => ⟨hr.length, ⟨hr.voids.1, fun h => by simp [entryPosted] at h⟩, fun _ => rfl⟩) l ht

theorem inOrder_settleVoided (l : List Handle) {t : Sender} (ht : t.InOrder) : (l.foldl Sender.settleVoided t).InOrder := by
  refine settleVoided_settles.inOrder_foldl rfl (fun e he hr => ?_) l ht
  have hv : e.voidCount ≤ 7 := hr.voids.2 (by rw [entryPosted_some, he]; rfl)
  by_cases hc : e.cancelRequested = true
  · exact ⟨hr.length, ⟨by dsimp only; omega, fun h => by simp [entryPosted, hc] at h⟩, fun h => by simp [hc] at h⟩
  · by_cases h8 : 8 ≤ e.voidCount + 1
    · exact ⟨hr.length, ⟨by dsimp only; omega, fun h => by simp [entryPosted, hc, h8] at h⟩,
        fun _ => Bool.eq_false_iff.mpr hc⟩
    · exact ⟨hr.length, ⟨by dsimp only; omega, fun _ => by dsimp only; omega⟩, fun _ => Bool.eq_false_iff.mpr hc⟩

/-- A posted entry that is WAITING again, or DONE where its cancel was requested. -/
theorem backToWaiting_inRange {e : TransmitEntry} (he : e.state.isDone = false) (hr : e.InRange) :
    ({ e with state := if e.cancelRequested then .done .cancelled else .waiting } : TransmitEntry).InRange := by
  have hv : e.voidCount ≤ 7 := hr.voids.2 (by rw [entryPosted_some, he]; rfl)
  refine ⟨hr.length, ⟨hr.voids.1, fun _ => hv⟩, fun h => ?_⟩
  by_cases hc : e.cancelRequested = true
  · simp [hc] at h
  · exact Bool.eq_false_iff.mpr hc

theorem inOrder_settleStuck (l : List Handle) {t : Sender} (ht : t.InOrder) : (l.foldl Sender.settleStuck t).InOrder :=
  settleStuck_settles.inOrder_foldl rfl (fun _ he hr => backToWaiting_inRange (he ▸ rfl) hr) l ht

theorem inOrder_handBack {t : Sender} (ht : t.InOrder) (h : Handle) : (t.handBack h).InOrder :=
  handBack_settles.inOrder rfl (fun _ he hr => backToWaiting_inRange (he ▸ rfl) hr) ht h

theorem inOrder_cancelAll {t : Sender} (ht : t.InOrder) : t.cancelAll.InOrder :=
  cancelWaiting_settles.inOrder_foldl rfl
    (fun _ _ hr => ⟨hr.length, ⟨hr.voids.1, fun h => by simp [entryPosted] at h⟩, fun h => by simp at h⟩) _ ht

/-! ## The round -/

/-- A posted entry in another posted state than WAITING. -/
theorem withState_inRange {e : TransmitEntry} {x : EntryState} (he : e.state.isDone = false) (hx : x ≠ .waiting) (hr : e.InRange) :
    ({ e with state := x } : TransmitEntry).InRange :=
  ⟨hr.length, ⟨hr.voids.1, fun _ => hr.voids.2 (by rw [entryPosted_some, he]; rfl)⟩, fun h => absurd h hx⟩

theorem inOrder_win {t : Sender} (ht : t.InOrder) (h : Handle) : (t.win h).InOrder := by
  unfold Sender.win
  split
  · next e he =>
    split
    · next hc =>
      exact inOrder_put_posted ht he (hc ▸ rfl) rfl (withState_inRange (hc ▸ rfl) EntryState.noConfusion (ht.entry he))
    · exact ht
  · exact ht

/-- R127: the WAITING entry offered is CONTENDING. -/
theorem inOrder_offer {t : Sender} (ht : t.InOrder) (h : Handle) (hw : entryWaiting t.entries[h] = true) :
    (t.setEntry h (t.entries[h].map fun e => { e with state := .contending })).InOrder := by
  cases he : t.entries[h] with
  | none => rw [he] at hw; exact absurd hw Bool.false_ne_true
  | some e =>
    rw [he] at hw
    have hs : e.state = .waiting := by simpa [entryWaiting] using hw
    exact inOrder_put_posted ht he (hs ▸ rfl) rfl (withState_inRange (hs ▸ rfl) EntryState.noConfusion (ht.entry he))

theorem lowestItem_mem {s : State} {l : List Item} {i : Item} (h : s.lowestItem l = some i) : i ∈ l := by
  induction l generalizing i with
  | nil => cases h
  | cons j l ih =>
    unfold State.lowestItem at h
    split at h
    · obtain rfl := Option.some.inj h
      exact List.mem_cons_self
    · next k hk =>
      split at h
      · obtain rfl := Option.some.inj h
        exact List.mem_cons_self
      · obtain rfl := Option.some.inj h
        exact List.mem_cons_of_mem _ (ih hk)

/-- R125: a notice is a candidate only while it is WAITING. -/
theorem candidate_waiting {s : State} {h : Handle} (hc : Item.notice h ∈ s.candidates) :
    s.membership.link = .joined ∧ s.membership.level ≠ .muted ∧ h ∈ s.sender.posting ∧
      entryWaiting s.sender.entries[h] = true := by
  unfold State.candidates at hc
  split at hc
  · cases hc
  · next hm =>
    split at hc
    · split at hc
      · rw [List.mem_singleton] at hc
        cases hc
      · cases hc
    · next hl =>
      rw [List.mem_append] at hc
      obtain hc | hc := hc
      · obtain ⟨k, -, hk⟩ := List.mem_map.mp hc
        cases hk
      · obtain ⟨g, hg, he⟩ := List.mem_map.mp hc
        obtain rfl := Item.notice.inj he
        rw [List.mem_filter] at hg
        exact ⟨hl, hm, hg.1, hg.2⟩
    all_goals cases hc

end Sys2Proof.Machine
end

section
/-! SUPPORT. Tally, roster, image, queues and transmit list stay in range (R49, R69, R73, R92, R124, R142): one lemma per
operation that writes them. -/

namespace Sys2Proof.Machine

open Sys2Proof

/-! ## Records in range -/

theorem transmitOk_congr {s u : State} (h : u.sender = s.sender) (hs : s.TransmitOk) : u.TransmitOk := by
  rw [transmitOk_iff, h]
  exact (transmitOk_iff s).mp hs

theorem transmitOk_of {s u : State} (h : s.sender.InOrder → u.sender.InOrder) (hs : s.TransmitOk) : u.TransmitOk :=
  (transmitOk_iff u).mpr (h ((transmitOk_iff s).mp hs))

/-- What an operation keeps of the five ranges. -/
structure KeepsRecords (s u : State) : Prop where
  tally : s.TallyOk → u.TallyOk
  roster : s.RosterOk → u.RosterOk
  image : s.ImageOk → u.ImageOk
  queues : s.QueuesOk → u.QueuesOk
  transmit : s.TransmitOk → u.TransmitOk

theorem KeepsRecords.refl (s : State) : KeepsRecords s s := ⟨id, id, id, id, id⟩

theorem KeepsRecords.trans {s t u : State} (h : KeepsRecords s t) (k : KeepsRecords t u) : KeepsRecords s u :=
  ⟨k.tally ∘ h.tally, k.roster ∘ h.roster, k.image ∘ h.image, k.queues ∘ h.queues, k.transmit ∘ h.transmit⟩

theorem KeepsRecords.ite {s u v : State} {c : Prop} [Decidable c] (hu : c → KeepsRecords s u) (hv : ¬ c → KeepsRecords s v) :
    KeepsRecords s (if c then u else v) := by
  split
  · next h => exact hu h
  · next h => exact hv h

section
variable {s u : State}

theorem tallyOk_congr (ht : u.membership.tally = s.membership.tally) (hl : u.membership.level = s.membership.level)
    (h : s.TallyOk) : u.TallyOk := by
  rw [State.TallyOk, ht, hl]
  exact h

theorem rosterOk_congr (hr : u.membership.roster = s.membership.roster) (h : s.RosterOk) : u.RosterOk := by
  rw [State.RosterOk, hr]
  exact h

theorem imageOk_congr (hi : u.image.lines = s.image.lines) (h : s.ImageOk) : u.ImageOk := by
  rw [State.ImageOk, hi]
  exact h

theorem queuesOk_congr (he : s.membership.events.length ≤ 8 → u.membership.events.length ≤ 8) (hr : u.receiver = s.receiver)
    (h : s.QueuesOk) : u.QueuesOk :=
  ⟨he h.events, hr ▸ h.queueA, hr ▸ h.queueB, hr ▸ h.lostA, hr ▸ h.lostB⟩

/-- A change that leaves membership unit, image and receiver. -/
theorem KeepsRecords.of_sender (hm : u.membership = s.membership) (hi : u.image = s.image) (hr : u.receiver = s.receiver)
    (ht : s.TransmitOk → u.TransmitOk) : KeepsRecords s u :=
  ⟨tallyOk_congr (by rw [hm]) (by rw [hm]), rosterOk_congr (by rw [hm]), imageOk_congr (by rw [hi]),
    queuesOk_congr (by rw [hm]; exact id) hr, ht⟩

/-- A change that leaves these and the notice sender. -/
theorem KeepsRecords.of_same (hm : u.membership = s.membership) (hi : u.image = s.image) (hr : u.receiver = s.receiver)
    (ht : u.sender = s.sender) : KeepsRecords s u := .of_sender hm hi hr (transmitOk_congr ht)

/-- A change of link state, counts and keys. -/
theorem KeepsRecords.of_membership (ht : u.membership.tally = s.membership.tally)
    (hl : u.membership.level = s.membership.level) (hr : u.membership.roster = s.membership.roster)
    (he : u.membership.events = s.membership.events) (hi : u.image = s.image) (hq : u.receiver = s.receiver)
    (hs : u.sender = s.sender) : KeepsRecords s u :=
  ⟨tallyOk_congr ht hl, rosterOk_congr hr, imageOk_congr (by rw [hi]), queuesOk_congr (by rw [he]; exact id) hq,
    transmitOk_congr hs⟩

/-- A beat. -/
theorem KeepsRecords.of_beat (h : BeatKeeps s u) (ht : s.TransmitOk → u.TransmitOk) : KeepsRecords s u :=
  .of_sender h.membership h.image h.receiver ht

end

/-! ## Events, tally, roster and image -/

theorem records_record (s : State) (e : StationEvent) : KeepsRecords s (s.record e) :=
  ⟨id, id, id, queuesOk_congr (appendEvent_length_le _ _) rfl, transmitOk_congr rfl⟩

theorem records_recordGroups (s : State) (m c : List StationEvent) : KeepsRecords s (s.recordGroups m c) := by
  rw [recordGroups_eq]
  exact ⟨id, id, id, queuesOk_congr (foldl_appendEvent_length_le _ _ _) rfl, transmitOk_congr rfl⟩

/-- R48, R50: a tally that moves by at most 8 stays with its level in a pair that can stand. -/
theorem records_setTally (s : State) (t : Nat)
    (h : s.membership.tally ≤ 255 → t ≤ s.membership.tally + 8 ∧ s.membership.tally ≤ t + 1 ∧ t ≤ 255) :
    KeepsRecords s (s.setTally t) := by
  rw [setTally_eq]
  refine ⟨fun hs => ?_, id, id, queuesOk_congr (fun he => ?_) rfl, transmitOk_congr rfl⟩
  · have hle : s.membership.tally ≤ 255 := by
      unfold State.TallyOk tallyInRange at hs
      split at hs <;> simp only [decide_eq_true_eq] at hs <;> omega
    obtain ⟨hu, hd, hm⟩ := h hle
    exact levelAfter_inRange _ _ _ hs hu hd hm
  · dsimp only
    split
    · exact he
    · exact appendEvent_length_le _ _ he

/-- R48: every change of the tally at a frame's end moves it by at most 8. -/
theorem tallyAfter_near (o : FrameOutcome) (d : Bool) (t : Nat) (h : t ≤ 255) :
    tallyAfter o d t ≤ t + 8 ∧ t ≤ tallyAfter o d t + 1 ∧ tallyAfter o d t ≤ 255 := by
  unfold tallyAfter tallyRaised
  split_ifs <;> omega

theorem rosterEntry_absent_inRange : RosterEntry.absent.absentCount ≤ 2 ∧
    (RosterEntry.absent.present = false → RosterEntry.absent.absentCount = 0) := ⟨by decide, fun _ => rfl⟩

/-- R70: an entry that has counted a slot and been given up past 2 is in range. -/
theorem lose_age_inRange (e : RosterEntry) (l : Level) : (e.age l).lose.absentCount ≤ 2 ∧
    ((e.age l).lose.present = false → (e.age l).lose.absentCount = 0) := by
  unfold RosterEntry.age
  split
  · exact ⟨by decide, by decide⟩
  · unfold RosterEntry.lose RosterEntry.lossDue
    split
    · exact rosterEntry_absent_inRange
    · next h =>
      simp only [Bool.true_and, decide_eq_true_eq, Nat.not_lt] at h
      exact ⟨h, fun e => Bool.noConfusion e⟩
  · exact ⟨by decide, by decide⟩

theorem removeOwner_held {lost : StationNo → Bool} {o : Owner} (h : o ≠ .nobody) : removeOwner lost true o ≠ .nobody := by
  cases o with
  | station n =>
    unfold removeOwner
    dsimp only
    split
    · exact Owner.noConfusion
    · exact Owner.noConfusion
  | unknown => exact Owner.noConfusion
  | nobody => exact absurd rfl h

theorem decideOwner_held (ws : List WinnerRecord) (k : LineNo) (before : Owner) : decideOwner ws k true before ≠ .nobody := by
  unfold decideOwner
  split
  · exact Owner.noConfusion
  · simp only [if_true]
    split
    · exact Owner.noConfusion
    · next h => exact h

/-- R94 to R97: a line record after an accepted frame is in range. -/
theorem lineAfter_inRange (s : State) (k : LineNo) : ¬ ((s.lineAfter k).rose = true ∧ (s.lineAfter k).fell = true) ∧
    ((s.lineAfter k).held = true → (s.lineAfter k).owner ≠ .nobody) := by
  refine ⟨fun ⟨hr, hf⟩ => ?_, fun hh => ?_⟩
  · simp only [State.lineAfter, Bool.and_eq_true, Bool.not_eq_true'] at hr hf
    exact Bool.false_ne_true (hf.2.symm.trans hr.2)
  · have hheld : s.line.samples.held[k].low = true := hh
    simp only [State.lineAfter, hheld]
    exact removeOwner_held (decideOwner_held _ _ _)

theorem records_losePeer (s : State) (n : StationNo) : KeepsRecords s (s.losePeer n) := by
  rw [losePeer_eq]
  refine ⟨tallyOk_congr rfl rfl, fun h m => ?_, fun h k => ?_, queuesOk_congr (fun he => ?_) rfl, transmitOk_congr rfl⟩
  · dsimp only
    rw [tablePut_get]
    split
    · exact rosterEntry_absent_inRange
    · exact h m
  · dsimp only
    rw [tableOf_get]
    refine ⟨(h k).1, fun hh => ?_⟩
    dsimp only at hh ⊢
    rw [hh]
    exact removeOwner_held ((h k).2 hh)
  · dsimp only
    split
    · exact appendEvent_length_le _ _ he
    · exact he

/-! ## Entries and returns -/

theorem handBackOffered_inOrder {s : State} (h : s.sender.InOrder) : s.handBackOffered.sender.InOrder := by
  rw [handBackOffered_eq]
  dsimp only
  split
  · exact inOrder_handBack h _
  all_goals exact h

theorem records_handBackOffered (s : State) : KeepsRecords s s.handBackOffered :=
  .of_beat (beat_handBackOffered s) (transmitOk_of handBackOffered_inOrder)

theorem emptiedImage_lines (m : Image) (k : LineNo) : m.emptied.lines[k] = .reset := tableOf_get _ k

theorem resetImage_lines (k : LineNo) : Image.reset.lines[k] = .reset := tableOf_get _ k

theorem lineReset_inRange : ¬ (LineRecord.reset.rose = true ∧ LineRecord.reset.fell = true) ∧
    (LineRecord.reset.held = true → LineRecord.reset.owner ≠ .nobody) := by decide

theorem emptyRoster_get (m : Membership) (n : StationNo) : m.emptyRoster.roster[n] = .absent := tableOf_get _ n

theorem records_detachBlocks (s : State) : KeepsRecords s s.detachBlocks := by
  refine (records_handBackOffered s).trans ⟨id, fun _ n => ?_, fun _ k => ?_, queuesOk_congr id rfl, transmitOk_of inOrder_cancelAll⟩
  · rw [State.detachBlocks]
    dsimp only
    rw [emptyRoster_get]
    exact rosterEntry_absent_inRange
  · rw [State.detachBlocks]
    dsimp only
    rw [emptiedImage_lines]
    exact lineReset_inRange

theorem records_enterDetached (s : State) : KeepsRecords s s.enterDetached :=
  (records_detachBlocks s).trans (records_recordGroups _ _ _)

theorem records_withdrawBlocks (s : State) : KeepsRecords s s.withdrawBlocks :=
  (records_handBackOffered s).trans ⟨id, id, id, queuesOk_congr id rfl, transmitOk_of inOrder_cancelAll⟩

theorem records_enterWithdrawn (s : State) : KeepsRecords s s.enterWithdrawn :=
  (records_withdrawBlocks s).trans (records_recordGroups _ _ _)

theorem records_withdrawIfDue (s : State) : KeepsRecords s s.withdrawIfDue :=
  .ite (fun _ => records_enterWithdrawn s) (fun _ => .refl s)

theorem records_becomeQuiet (s : State) : KeepsRecords s s.becomeQuiet := by
  unfold State.becomeQuiet
  dsimp only
  refine .ite (fun _ => ?_) (fun _ => .of_same rfl rfl rfl rfl)
  unfold State.stallReturn
  split
  · exact .of_same rfl rfl rfl rfl
  · refine .trans ?_ (records_record _ _)
    exact .of_membership rfl rfl rfl rfl rfl rfl rfl

theorem records_startFrame (s : State) (own : Bool) : KeepsRecords s (s.startFrame own) :=
  .of_same (startFrame_membership s own) (startFrame_image s own) (startFrame_receiver s own) (startFrame_sender s own)

theorem records_unsync (s : State) : KeepsRecords s s.unsync :=
  .of_same (unsync_membership s) (unsync_image s) (unsync_receiver s) (unsync_sender s)

theorem records_frameClosed (s : State) : KeepsRecords s s.frameClosed := by
  unfold State.frameClosed
  dsimp only
  refine .ite (fun _ => .trans ?_ (records_enterDetached _)) (fun _ => ?_) <;> exact .of_same rfl rfl rfl rfl

/-! ## Rounds -/

theorem tellWon_inOrder {s : State} (h : s.sender.InOrder) : s.tellWon.sender.InOrder := by
  unfold State.tellWon
  split
  · exact h
  · exact inOrder_win h _
  · exact h
  · exact h

theorem endRound_inOrder {s : State} (h : s.sender.InOrder) : s.endRound.sender.InOrder := by
  unfold State.endRound
  dsimp only
  have hround : ∀ u : State, u.sender.InOrder →
      (if u.contention.role = .contender then u.tellWon else u.handBackOffered).sender.InOrder := by
    intro u hu
    split
    · exact tellWon_inOrder hu
    · exact handBackOffered_inOrder hu
  refine hround _ ?_
  split
  · exact h
  · exact h

theorem records_settleRound (s : State) : KeepsRecords s s.settleRound := by
  refine .of_beat (beat_settleRound s) (transmitOk_of fun h => ?_)
  unfold State.settleRound
  split
  · exact endRound_inOrder h
  · exact h

/-- R26, R127: the item offered is a candidate, so a notice offered was WAITING. -/
theorem enterFall_inOrder {s : State} (h : s.sender.InOrder) : s.enterFall.sender.InOrder := by
  have hs : s.enterFall.sender = (s.offer (s.lowestItem s.candidates)).sender := rfl
  rw [hs]
  unfold State.offer
  split
  · exact h
  · exact h
  · exact h
  · next g hg => exact inOrder_offer h g (candidate_waiting (lowestItem_mem hg)).2.2.2

theorem enterSampled_inOrder {s : State} (drove : Bool) (l : Level) (h : s.sender.InOrder) :
    (s.enterSampled drove l).sender.InOrder := by
  cases l with
  | dominant => exact h
  | recessive =>
    unfold State.enterSampled
    dsimp only
    rw [countBeat_sender]
    split
    · exact handBackOffered_inOrder (s := s.driveFault false) h
    · exact h

theorem enterStep_inOrder {s : State} (l : Level) (h : s.sender.InOrder) : (s.enterStep l).sender.InOrder := by
  unfold State.enterStep
  dsimp only
  split
  · exact enterSampled_inOrder _ _ h
  · exact enterSampled_inOrder _ _ (enterFall_inOrder h)

theorem wordEnd_sender (s : State) (l : Level) : (s.wordEnd l).sender = s.sender := by
  unfold State.wordEnd
  dsimp only
  split_ifs <;> rfl

theorem bodyEnd_sender (s : State) (l : Level) : (s.bodyEnd l).sender = s.sender := by
  unfold State.bodyEnd
  dsimp only
  split_ifs <;> rfl

theorem slotEnd_sender (s : State) (l : Level) : (s.slotEnd l).sender = s.sender := by
  unfold State.slotEnd
  dsimp only
  split_ifs <;> rfl

theorem followOnStep_sender (s : State) : s.followOnStep.sender = s.sender := by
  unfold State.followOnStep
  dsimp only
  split_ifs <;> rfl

theorem fallSlb_inOrder {s : State} (h : s.sender.InOrder) : s.fallSlb.sender.InOrder := by
  unfold State.fallSlb
  split
  · exact enterFall_inOrder h
  · split
    · exact h
    · exact h

/-! ## The ends of a frame -/

theorem records_dropFrame (s : State) : KeepsRecords s s.dropFrame := by
  unfold State.dropFrame
  exact .of_sender rfl rfl rfl (transmitOk_of (inOrder_settleVoided _))

theorem records_dropStuck (s : State) : KeepsRecords s s.dropStuck := by
  unfold State.dropStuck
  exact .of_sender rfl rfl rfl (transmitOk_of (inOrder_settleStuck _))

theorem records_breakFrame (s : State) : KeepsRecords s s.breakFrame := by
  unfold State.breakFrame
  dsimp only
  refine .ite (fun _ => .trans ?_ (records_enterDetached _)) (fun _ => .trans ?_ (records_withdrawIfDue _))
  all_goals
    refine .trans (.trans (.trans ?_ (records_setTally _ _ fun h => ?_)) (records_dropFrame _)) (records_handBackOffered _)
    · exact .of_same rfl rfl rfl rfl
    · dsimp only [tallyRaised] at h ⊢
      omega

theorem records_stall (s : State) : KeepsRecords s s.stall := by
  unfold State.stall
  dsimp only
  refine .trans ((records_dropStuck s).trans (records_handBackOffered _)) ?_
  split
  · refine .trans ?_ (records_record _ _)
    exact .of_membership rfl rfl rfl rfl rfl rfl rfl
  · split
    · refine .trans ?_ (records_enterDetached _)
      exact .of_same rfl rfl rfl rfl
    · exact .of_same rfl rfl rfl rfl

/-- R142 to R144: both queues stay within 8 records and a lost count of 255 when a winner is filtered. -/
theorem filter_inRange (c : Configuration) (frame : Word16) (q : Receiver) (w : WinnerRecord)
    (h : (q.queueA.records.length ≤ 8 ∧ q.queueB.records.length ≤ 8) ∧ q.queueA.lost ≤ 255 ∧ q.queueB.lost ≤ 255) :
    ((q.filter c frame w).queueA.records.length ≤ 8 ∧ (q.filter c frame w).queueB.records.length ≤ 8) ∧
      (q.filter c frame w).queueA.lost ≤ 255 ∧ (q.filter c frame w).queueB.lost ≤ 255 := by
  obtain ⟨⟨hA, hB⟩, hlA, hlB⟩ := h
  unfold Receiver.filter
  split
  · split
    · exact ⟨⟨store_length_le _ _ _ _ hA, hB⟩, store_lost_le _ _ _ _ hlA, hlB⟩
    · exact ⟨⟨hA, store_length_le _ _ _ _ hB⟩, hlA, store_lost_le _ _ _ _ hlB⟩
    · exact ⟨⟨hA, hB⟩, hlA, hlB⟩
  · exact ⟨⟨hA, hB⟩, hlA, hlB⟩

theorem foldl_filter_inRange (c : Configuration) (frame : Word16) (ws : List WinnerRecord) (q : Receiver)
    (h : (q.queueA.records.length ≤ 8 ∧ q.queueB.records.length ≤ 8) ∧ q.queueA.lost ≤ 255 ∧ q.queueB.lost ≤ 255) :
    ((ws.foldl (Receiver.filter c frame) q).queueA.records.length ≤ 8 ∧
      (ws.foldl (Receiver.filter c frame) q).queueB.records.length ≤ 8) ∧
      (ws.foldl (Receiver.filter c frame) q).queueA.lost ≤ 255 ∧ (ws.foldl (Receiver.filter c frame) q).queueB.lost ≤ 255 := by
  induction ws generalizing q with
  | nil => exact h
  | cons w ws ih => exact ih _ (filter_inRange c frame q w h)

section
variable (s : State)

theorem acceptBlocks_roster (n : StationNo) : s.acceptBlocks.membership.roster[n] = s.rosterAfter n := by
  dsimp only [State.acceptBlocks]
  exact tableOf_get _ n

theorem acceptBlocks_lines (k : LineNo) : s.acceptBlocks.image.lines[k] = s.lineAfter k := by
  dsimp only [State.acceptBlocks]
  exact tableOf_get _ k

theorem acceptBlocks_receiver : s.acceptBlocks.receiver =
    s.contention.winners.foldl (Receiver.filter s.config s.image.frameNumber) s.receiver := by
  dsimp only [State.acceptBlocks]

theorem acceptBlocks_sender : s.acceptBlocks.sender =
    (roundOrder s.contention.winners).foldl Sender.settleSent s.sender := by
  dsimp only [State.acceptBlocks]

theorem acceptBlocks_membership : s.acceptBlocks.membership =
    { s.membership with roster := Table.of s.rosterAfter, rosterBaseline := false } := by
  dsimp only [State.acceptBlocks]

end

theorem records_acceptBlocks (s : State) : KeepsRecords s s.acceptBlocks := by
  refine ⟨tallyOk_congr ?_ ?_, fun _ n => ?_, fun _ k => ?_, fun h => ?_, transmitOk_of fun h => ?_⟩
  · rw [acceptBlocks_membership]
  · rw [acceptBlocks_membership]
  · rw [acceptBlocks_roster]
    exact lose_age_inRange _ _
  · rw [acceptBlocks_lines]
    exact lineAfter_inRange s k
  · obtain ⟨⟨hA, hB⟩, hlA, hlB⟩ := foldl_filter_inRange s.config s.image.frameNumber s.contention.winners s.receiver
      ⟨⟨h.queueA, h.queueB⟩, h.lostA, h.lostB⟩
    rw [← acceptBlocks_receiver] at hA hB hlA hlB
    refine ⟨?_, hA, hB, hlA, hlB⟩
    rw [acceptBlocks_membership]
    exact h.events
  · rw [acceptBlocks_sender]
    exact inOrder_settleSent _ h

theorem records_abandonAll (l : List LineNo) (s : State) : KeepsRecords s (l.foldl State.abandonClaim s) := by
  rw [abandonAll_eq]
  exact .of_same rfl rfl rfl rfl

theorem records_becomeProving (s : State) : KeepsRecords s s.becomeProving := .of_membership rfl rfl rfl rfl rfl rfl rfl

theorem records_applyLink (s : State) (v : LinkVerdict) (m c : List StationEvent) : KeepsRecords s (s.applyLink v m c) := by
  cases v with
  | stays => exact records_recordGroups s m c
  | joins => exact .trans (t := s.setLink .joined) (.of_membership rfl rfl rfl rfl rfl rfl rfl) (records_recordGroups _ _ _)
  | counts =>
    refine .trans (t := { s with membership := { s.membership with listeningCount := s.membership.listeningCount + 1 } })
      (.of_membership rfl rfl rfl rfl rfl rfl rfl) ?_
    exact .ite (fun _ => (records_becomeProving _).trans (records_recordGroups _ _ _)) (fun _ => records_recordGroups _ _ _)
  | refused r =>
    rw [applyLink_refused]
    refine .trans (.trans ?_ (records_detachBlocks _)) (records_recordGroups _ _ _)
    exact .of_membership rfl rfl rfl rfl rfl rfl rfl

theorem records_acceptFrame (s : State) : KeepsRecords s s.acceptFrame :=
  (records_acceptBlocks s).trans ((records_abandonAll _ _).trans (records_applyLink _ _ _ _))

theorem records_settleVerdict (s : State) (o : FrameOutcome) (d : Bool) : KeepsRecords s (s.settleVerdict o d) := by
  unfold State.settleVerdict
  dsimp only
  refine .trans ?_ (records_setTally _ _ (tallyAfter_near o d _))
  exact .ite (fun _ => ⟨id, id, imageOk_congr rfl, queuesOk_congr id rfl, transmitOk_congr rfl⟩) (fun _ => .refl s)

theorem records_applyFrame (s : State) (o : FrameOutcome) : KeepsRecords s (s.applyFrame o) := by
  cases o with
  | accepted => exact records_acceptFrame s
  | voided => exact records_dropFrame s
  | locallyDiscarded => exact records_dropFrame s

theorem records_frameEndStep (s : State) (l : Level) : KeepsRecords s (s.frameEndStep l) := by
  rw [frameEndStep_eq]
  refine .trans (.trans (.trans ?_ (records_settleVerdict _ _ _)) (records_applyFrame _ _)) (records_withdrawIfDue _)
  exact .of_same rfl rfl rfl rfl

/-! ## Every event -/

theorem pinSettles_records (s : State) (p : PinNo) (l : PinLevel) : (s.pinSettles p l).image = s.image ∧
    (s.pinSettles p l).receiver = s.receiver ∧ (s.pinSettles p l).sender = s.sender := by
  have edge : ∀ (u : State) (i : SourceNo), (u.takeEdge i).image = u.image ∧ (u.takeEdge i).receiver = u.receiver ∧
      (u.takeEdge i).sender = u.sender := by
    intro u i
    unfold State.takeEdge
    split
    · exact ⟨setSource_image _ _ _, setSource_receiver _ _ _, setSource_sender _ _ _⟩
    · exact ⟨rfl, rfl, rfl⟩
  unfold State.pinSettles
  dsimp only
  split
  · obtain ⟨hi, hr, hs⟩ := edge (s.setSource (pinIndex p) { s.sources[pinIndex p] with filtered := some l }) (pinIndex p)
    exact ⟨hi.trans (setSource_image _ _ _), hr.trans (setSource_receiver _ _ _), hs.trans (setSource_sender _ _ _)⟩
  · exact ⟨setSource_image _ _ _, setSource_receiver _ _ _, setSource_sender _ _ _⟩

theorem records_setSource (s : State) (i : SourceNo) (r : SourceRun) : KeepsRecords s (s.setSource i r) :=
  .of_same (setSource_membership _ _ _) (setSource_image _ _ _) (setSource_receiver _ _ _) (setSource_sender _ _ _)

theorem Events.records {s u : State} (h : Events s u) : KeepsRecords s u := by
  cases h with
  | nothing => exact .refl s
  | pin p l =>
    obtain ⟨hi, hr, hs⟩ := pinSettles_records s p l
    exact .of_same (pinSettles_others s p l).1 hi hr hs
  | quiet => exact records_becomeQuiet s
  | timers => exact .of_same rfl rfl rfl rfl
  | starts own => exact records_startFrame s own
  | enter l => exact .of_beat (beat_enterStep s l) (transmitOk_of (enterStep_inOrder l))
  | frameEnd l => exact records_frameEndStep s l
  | slot l => exact .of_beat (beat_slotEnd s l) (transmitOk_congr (slotEnd_sender s l))
  | word l => exact .of_beat (beat_wordEnd s l) (transmitOk_congr (wordEnd_sender s l))
  | body l => exact .of_beat (beat_bodyEnd s l) (transmitOk_congr (bodyEnd_sender s l))
  | followOn => exact .of_beat (beat_followOnStep s) (transmitOk_congr (followOnStep_sender s))
  | closing => exact .of_beat (beat_countBeat s _ _) (transmitOk_congr rfl)
  | fall => exact .of_beat (beat_fallSlb s) (transmitOk_of fallSlb_inOrder)
  | withdraws => exact records_withdrawIfDue s
  | proving => exact (records_becomeProving s).trans (records_record _ _)
  | peerLost n => exact records_losePeer s n
  | pulse i => exact records_setSource s i _
  | holdLimit k =>
    refine .trans ?_ (records_record _ _)
    exact .of_same (abandonClaim_membership _ _) (abandonClaim_image _ _) (abandonClaim_receiver _ _) (abandonClaim_sender _ _)
  | voidedOut h e he hd =>
    simp only [TransmitEntry.voidDue, Bool.and_eq_true, beq_iff_eq] at hd
    obtain ⟨⟨hw, -⟩, -⟩ := hd
    refine .of_sender rfl rfl rfl (transmitOk_of fun ht => ?_)
    have hr := ht.entry he
    exact inOrder_done ht he (hw ▸ rfl) rfl
      ⟨hr.length, ⟨hr.voids.1, fun h => by simp [entryPosted] at h⟩, fun h => EntryState.noConfusion h⟩
  | closed => exact records_frameClosed s
  | brokenByStart =>
    exact .ite (fun _ => (records_breakFrame s).trans (records_startFrame _ _)) (fun _ => records_breakFrame s)
  | brokenByStop => exact .ite (fun _ => (records_breakFrame s).trans (records_unsync _)) (fun _ => records_breakFrame s)
  | lateLeaving => exact records_enterDetached s
  | lateStart => exact records_startFrame s false
  | lateStop => exact records_unsync s
  | stuck => exact records_stall s

/-! ## Every transaction -/

theorem records_joinTaken (s : State) : KeepsRecords s s.joinTaken := by
  unfold State.joinTaken
  dsimp only
  refine .trans ?_ (records_record _ _)
  refine .trans (t := { s with
      membership := { s.membership.emptyRoster with
        tally := 0, level := .clean, listeningCount := 0, helloKey := none, remembered := none, link := .listening }
      image := .reset
      line := { s.line.idle with
        lastAcceptedPlan := .silent
        quietTimer := .running, keepaliveTimer := .running, stuckTimer := .running } })
    ⟨fun _ => by exact (rfl : tallyInRange .clean 0 = true), fun _ n => ?_, fun _ k => ?_, queuesOk_congr id rfl, transmitOk_congr rfl⟩
    (.ite (fun _ => .refl _) (fun _ => records_record _ _))
  · dsimp only
    rw [emptyRoster_get]
    exact rosterEntry_absent_inRange
  · dsimp only
    rw [resetImage_lines]
    exact lineReset_inRange

theorem records_takeEdge (s : State) (i : SourceNo) : KeepsRecords s (s.takeEdge i) :=
  .ite (fun _ => records_setSource _ _ _) (fun _ => .refl s)

theorem Transacts.records {s v : State} (h : Transacts s v) : KeepsRecords s v := by
  cases h with
  | countsRead => exact ⟨id, id, id, fun h => ⟨h.events, h.queueA, h.queueB, Nat.zero_le _, Nat.zero_le _⟩, transmitOk_congr rfl⟩
  | joined => exact records_joinTaken s
  | leaves => exact .trans (t := s.setLink .leaving) (.of_membership rfl rfl rfl rfl rfl rfl rfl) (records_record _ _)
  | detached => exact records_enterDetached s
  | handedOn e older newer =>
    rw [handOn_others]
    exact .of_same rfl rfl rfl rfl
  | asserted i => exact (records_setSource _ _ _).trans (records_takeEdge _ _)
  | released i => exact records_setSource _ _ _
  | posted h tag urgency data hf hd => exact .of_sender rfl rfl rfl (transmitOk_of fun ht => inOrder_post ht hf tag urgency data hd)
  | freed h e he hw => exact .of_sender rfl rfl rfl (transmitOk_of fun ht => inOrder_free ht he (hw ▸ rfl))
  | cancelAsked h e he hw =>
    refine .of_sender rfl rfl rfl (transmitOk_of fun ht => ?_)
    have hr := ht.entry he
    have hd : e.state.isDone = false := by obtain hw | hw := hw <;> rw [hw] <;> rfl
    refine inOrder_put_posted ht he hd hd ⟨hr.length, ⟨hr.voids.1, fun _ => hr.voids.2 (by rw [entryPosted_some, hd]; rfl)⟩, fun h => ?_⟩
    obtain hw | hw := hw <;> exact EntryState.noConfusion (hw.symm.trans h)
  | nothing | configured | finished | masked => exact .of_same rfl rfl rfl rfl

/-! ## TAKE -/

theorem records_takeFrom (s : State) (d : DeliveryNo) : KeepsRecords s (s.takeFrom d) := by
  unfold State.takeFrom
  split
  · split <;> exact .of_same rfl rfl rfl rfl
  · exact ⟨id, id, id, fun h => ⟨h.events, by simp only [List.length_drop]; have := h.queueA; omega, h.queueB, h.lostA, h.lostB⟩,
      transmitOk_congr rfl⟩
  · exact ⟨id, id, id, fun h => ⟨h.events, h.queueA, by simp only [List.length_drop]; have := h.queueB; omega, h.lostA, h.lostB⟩,
      transmitOk_congr rfl⟩
  · split
    · next hr => exact .of_sender rfl rfl rfl (transmitOk_of fun ht => inOrder_reportTaken ht hr)
    · exact .refl s
  · exact ⟨id, id, id, queuesOk_congr (fun h => by simp only [List.length_drop]; omega) rfl, transmitOk_congr rfl⟩

theorem records_taken (s : State) : KeepsRecords s s.taken := by
  unfold State.taken
  split
  · exact .of_same rfl rfl rfl rfl
  · exact .trans (.trans (t := s.openEntry _) (.of_same rfl rfl rfl rfl) (records_takeFrom _ _)) (.of_same rfl rfl rfl rfl)

end Sys2Proof.Machine
end

section
/-! SUPPORT. The in-service list, the configuration, the listening count, the sources and the contention state at every step, and
with them the ranges of chapter by chapter (O57). -/

namespace Sys2Proof.Machine

open Sys2Proof

/-! ## Selection and token (10.3, 10.4) -/

theorem mem_presentables (s : State) (d : DeliveryNo) : d ∈ s.presentables ↔ s.presentable d = true := by
  simp [State.presentables]

/-- R157: the source selected is among the presentable ones of the lowest rank. -/
theorem selected_mem {s : State} {d : DeliveryNo} (h : s.selected = some d) :
    d ∈ s.presentables.filter fun d => s.rankOf d == s.lowestRank s.presentables := by
  have first {l : List DeliveryNo} (h : l.head? = some d) : d ∈ l := List.mem_of_mem_head? h
  unfold State.selected at h
  dsimp only at h
  split at h
  · obtain h | ⟨-, h⟩ := (Option.orElse_eq_some _ _ _).mp h
    · exact List.mem_of_find?_eq_some h
    · exact first h
  · exact first h
  · exact first h

theorem selected_presentable {s : State} {d : DeliveryNo} (h : s.selected = some d) : s.presentable d = true :=
  (mem_presentables s d).mp (List.mem_of_mem_filter (selected_mem h))

/-- R156: a presentable source has no entry in service, and there is a place for one. -/
theorem presentable_free {s : State} {d : DeliveryNo} (h : s.presentable d = true) :
    d ∉ s.dispatch.inService.map (·.source) ∧ s.dispatch.inService.length < 4 := by
  simp only [State.presentable, Bool.and_eq_true, Bool.not_eq_true', decide_eq_true_eq] at h
  obtain ⟨⟨⟨-, hs⟩, hl⟩, -⟩ := h
  refine ⟨fun hm => ?_, hl⟩
  obtain ⟨e, he, rfl⟩ := List.mem_map.mp hm
  exact Bool.false_ne_true (hs.symm.trans (List.any_eq_true.mpr ⟨e, he, beq_self_eq_true _⟩))

/-- The cycle 1 to 255 does not come back to a value within three places. -/
theorem nextToken_iterate_ne : ∀ t : Byte, t ≠ 0 →
    nextToken^[1] t ≠ t ∧ nextToken^[2] t ≠ t ∧ nextToken^[3] t ≠ t := by decide

theorem nextToken_iterate_ne_zero {t : Byte} (ht : t ≠ 0) (n : Nat) : nextToken^[n] t ≠ 0 := by
  induction n with
  | zero => exact ht
  | succ n ih =>
    rw [Function.iterate_succ_apply']
    exact nextToken_ne_zero _ ih

/-- Four values in a row of the cycle are distinct. -/
theorem nextToken_iterate_injective {t : Byte} (ht : t ≠ 0) {i j : Nat} (hij : i < j) (hj : j ≤ 3) :
    nextToken^[i] t ≠ nextToken^[j] t := by
  obtain ⟨h1, h2, h3⟩ := nextToken_iterate_ne _ (nextToken_iterate_ne_zero ht i)
  have hsum : nextToken^[j] t = nextToken^[j - i] (nextToken^[i] t) := by
    rw [← Function.iterate_add_apply]
    congr 2
    omega
  rw [hsum]
  obtain hd | hd | hd : j - i = 1 ∨ j - i = 2 ∨ j - i = 3 := by omega
  · rw [hd]; exact h1.symm
  · rw [hd]; exact h2.symm
  · rw [hd]; exact h3.symm

/-- R161: with fewer than four entries the token given is one that no entry holds: the values passed over are distinct and held,
so they are all that are held when there are as many of them as entries. -/
theorem freshToken_free {s : State} (h : s.ServiceOk) (hl : s.dispatch.inService.length < 4) :
    ∃ n : Nat, n ≤ 3 ∧ s.dispatch.freshToken = nextToken^[n] s.dispatch.tokenCounter ∧
      s.dispatch.freshToken ∉ s.dispatch.inService.map (·.token) ∧
      ∀ m < n, nextToken^[m] s.dispatch.tokenCounter ∈ s.dispatch.inService.map (·.token) := by
  obtain ⟨n, hn, hf, hm, hfree⟩ :=
    freshToken_spec (s.dispatch.inService.map (·.token)) s.dispatch.inService.length s.dispatch.tokenCounter
  refine ⟨n, by omega, hf, ?_, hm⟩
  obtain hlt | heq := lt_or_eq_of_le hn
  · exact hfree hlt
  · intro hheld
    set held := s.dispatch.inService.map (·.token) with hheldDef
    have hvalues : ((List.range (n + 1)).map fun m => nextToken^[m] s.dispatch.tokenCounter).Nodup := by
      refine (List.nodup_map_iff_inj_on List.nodup_range).mpr fun i hi j hj hij => ?_
      rw [List.mem_range] at hi hj
      by_contra hne
      obtain hlt | hlt := lt_or_gt_of_ne hne
      · exact nextToken_iterate_injective h.counter hlt (by omega) hij
      · exact nextToken_iterate_injective h.counter hlt (by omega) hij.symm
    have hsub : ((List.range (n + 1)).map fun m => nextToken^[m] s.dispatch.tokenCounter) ⊆ held := by
      intro x hx
      obtain ⟨m, hmr, rfl⟩ := List.mem_map.mp hx
      rw [List.mem_range] at hmr
      obtain hlt | rfl := lt_or_eq_of_le (Nat.lt_succ_iff.mp hmr)
      · exact hm m hlt
      · exact hf ▸ hheld
    have hlen := (hvalues.subperm hsub).length_le
    simp only [hheldDef, List.length_map, List.length_range] at hlen
    omega

/-! ## The in-service list -/

section
variable {s u v : State}

theorem serviceOk_of (hl : u.dispatch.inService.length = s.dispatch.inService.length)
    (hs : u.dispatch.inService.map (·.source) = s.dispatch.inService.map (·.source))
    (ht : u.dispatch.inService.map (·.token) = s.dispatch.inService.map (·.token))
    (hc : u.dispatch.tokenCounter = s.dispatch.tokenCounter) (h : s.ServiceOk) : u.ServiceOk := by
  refine ⟨hl ▸ h.atMostFour, hs ▸ h.sources, ht ▸ h.tokens, fun e he => ?_, hc ▸ h.counter⟩
  have hm : e.token ∈ s.dispatch.inService.map (·.token) := ht ▸ List.mem_map_of_mem he
  obtain ⟨f, hf, hfe⟩ := List.mem_map.mp hm
  exact hfe ▸ h.nonzero f hf

/-- Entries that are orphaned and nothing else keep the list in range. -/
theorem KeepsFixed.serviceOk (h : KeepsFixed s u) (hs : s.ServiceOk) : u.ServiceOk := by
  have hlen := congrArg List.length h.tokens
  have hsrc := congrArg (List.map (·.2.1)) h.tokens
  have htok := congrArg (List.map (·.1)) h.tokens
  simp only [List.length_map, List.map_map] at hlen hsrc htok
  exact serviceOk_of hlen hsrc htok h.tokenCounter hs

theorem serviceOk_dispatch (hi : u.dispatch.inService = s.dispatch.inService)
    (hc : u.dispatch.tokenCounter = s.dispatch.tokenCounter) (h : s.ServiceOk) : u.ServiceOk :=
  serviceOk_of (by rw [hi]) (by rw [hi]) (by rw [hi]) hc h

/-- R164: an entry removed. -/
theorem serviceOk_removed {e : ServiceEntry} {older newer : List ServiceEntry}
    (he : s.dispatch.inService = older ++ e :: newer) (hi : u.dispatch.inService = older ++ newer)
    (hc : u.dispatch.tokenCounter = s.dispatch.tokenCounter) (h : s.ServiceOk) : u.ServiceOk := by
  have hsub : List.Sublist u.dispatch.inService s.dispatch.inService := by
    rw [hi, he]
    exact List.Sublist.append_left (List.sublist_cons_self _ _) _
  exact ⟨hsub.length_le.trans h.atMostFour, h.sources.sublist (hsub.map _), h.tokens.sublist (hsub.map _),
    fun e he => h.nonzero e (hsub.subset he), hc ▸ h.counter⟩

theorem Transacts.serviceOk (hv : Transacts s v) (h : s.ServiceOk) : v.ServiceOk := by
  cases hv with
  | detached => exact (keeps_enterDetached s).serviceOk h
  | finished e older newer he => exact serviceOk_removed he rfl rfl h
  | handedOn e older newer he =>
    rw [handOn_others]
    exact serviceOk_removed he rfl rfl h
  | asserted i => exact ((keeps_setSource s i { s.sources[i] with softActive := true }).trans (keeps_takeEdge _ i)).serviceOk h
  | released i => exact (keeps_setSource s i _).serviceOk h
  | joined =>
    unfold State.joinTaken
    dsimp only
    split <;> exact serviceOk_dispatch (s := s) rfl rfl h
  | nothing | countsRead | configured | leaves | masked | posted | freed | cancelAsked =>
    exact serviceOk_dispatch (s := s) (by exact rfl) (by exact rfl) h

end

/-- R161, R162: the entry opened for a presentable source holds a source and a token of its own. -/
theorem serviceOk_openEntry {s : State} {d : DeliveryNo} (hd : s.presentable d = true) (h : s.ServiceOk) :
    (s.openEntry d).ServiceOk := by
  obtain ⟨hfree, hlen⟩ := presentable_free hd
  obtain ⟨n, -, hf, hnew, -⟩ := freshToken_free h hlen
  have hz : s.dispatch.freshToken ≠ 0 := hf ▸ nextToken_iterate_ne_zero h.counter n
  refine ⟨?_, ?_, ?_, fun e he => ?_, nextToken_ne_zero _ hz⟩
  · simp only [State.openEntry, List.length_append, List.length_singleton]
    omega
  · simp only [State.openEntry, List.map_append, List.map_singleton, State.serviceEntry]
    exact h.sources.append (List.nodup_singleton _) (by simpa using hfree)
  · simp only [State.openEntry, List.map_append, List.map_singleton, State.serviceEntry]
    exact h.tokens.append (List.nodup_singleton _) (by simpa using hnew)
  · simp only [State.openEntry, List.mem_append, List.mem_singleton] at he
    obtain he | rfl := he
    · exact h.nonzero e he
    · exact hz

theorem takeFrom_service (s : State) (d : DeliveryNo) : (s.takeFrom d).dispatch.inService = s.dispatch.inService ∧
    (s.takeFrom d).dispatch.tokenCounter = s.dispatch.tokenCounter := by
  unfold State.takeFrom
  split
  · split <;> exact ⟨rfl, rfl⟩
  · exact ⟨rfl, rfl⟩
  · exact ⟨rfl, rfl⟩
  · split <;> exact ⟨rfl, rfl⟩
  · exact ⟨rfl, rfl⟩

theorem serviceOk_taken {s : State} (h : s.ServiceOk) : s.taken.ServiceOk := by
  unfold State.taken
  split
  · refine serviceOk_dispatch (s := s) ?_ ?_ h <;> rfl
  · next d hd =>
    refine serviceOk_dispatch (s := s.openEntry d) ?_ ?_ (serviceOk_openEntry (selected_presentable hd) h)
    · exact (takeFrom_service (s.openEntry d) d).1
    · exact (takeFrom_service (s.openEntry d) d).2

/-! ## Listening count, sources and contention state -/

theorem ranges_pinSettles (s : State) (p : PinNo) (l : PinLevel) : KeepsRanges s (s.pinSettles p l) := by
  have h := ranges_setSource s (pinIndex p) { s.sources[pinIndex p] with filtered := some l } fun _ hs =>
    ⟨(hs.inRange _).congr rfl rfl rfl, fun hl => hs.offline hl _⟩
  unfold State.pinSettles
  dsimp only
  exact .ite (fun _ => h.trans (ranges_takeEdge _ _)) (fun _ => h)

theorem ranges_becomeQuiet (s : State) : KeepsRanges s s.becomeQuiet := by
  unfold State.becomeQuiet
  dsimp only
  refine .ite (fun hl => ?_) (fun _ => .of_same rfl rfl rfl rfl rfl (.inl rfl))
  unfold State.stallReturn
  split
  · exact .of_same rfl rfl rfl rfl rfl (.inl rfl)
  · next r _ =>
    refine .trans ?_ (ranges_record _ _)
    refine ⟨rfl, fun h => ?_, fun _ => sourcesOk_congr rfl ?_ rfl, contentionOk_congr rfl (.inl rfl)⟩
    · obtain ⟨hc, -⟩ := h
      cases r with
      | listening => exact ⟨Nat.zero_le _, fun _ => Nat.zero_le _⟩
      | proving => exact ⟨hc, fun e => LinkState.noConfusion e⟩
      | joined => exact ⟨hc, fun e => LinkState.noConfusion e⟩
    · intro e
      cases r <;> exact absurd e Bool.false_ne_true

theorem ranges_frameClosed (s : State) : KeepsRanges s s.frameClosed := by
  unfold State.frameClosed
  dsimp only
  refine .ite (fun _ => .trans ?_ (ranges_enterDetached _)) (fun _ => ?_) <;> exact .of_same rfl rfl rfl rfl rfl (.inr rfl)

theorem ranges_stall (s : State) : KeepsRanges s s.stall := by
  unfold State.stall
  dsimp only
  refine .trans ((ranges_dropStuck s).trans (ranges_handBackOffered _)) ?_
  split
  · refine .trans ?_ (ranges_record _ _)
    refine ⟨rfl, fun h => ⟨h.1, fun e => LinkState.noConfusion e⟩, fun _ => sourcesOk_congr rfl ?_ rfl,
      contentionOk_congr rfl (.inr rfl)⟩
    exact fun e => absurd (show LinkState.stalled.lineIdle = true from e) (by decide)
  · split
    · refine .trans ?_ (ranges_enterDetached _)
      exact .of_same rfl rfl rfl rfl rfl (.inr rfl)
    · exact .of_same rfl rfl rfl rfl rfl (.inr rfl)

theorem ranges_losePeer (s : State) (n : StationNo) : KeepsRanges s (s.losePeer n) := by
  rw [losePeer_eq]
  exact .of_same rfl rfl rfl rfl rfl (.inl rfl)

theorem ranges_fallSlb (s : State) : KeepsRanges s s.fallSlb := by
  unfold State.fallSlb
  refine .ite (fun _ => ranges_enterFall s) (fun _ => .ite (fun _ => ?_) (fun _ => ?_))
  · exact .of_same rfl rfl rfl rfl rfl (.inl rfl)
  · exact .of_same rfl rfl rfl rfl rfl (.inl rfl)

theorem ranges_followOnStep (s : State) : KeepsRanges s s.followOnStep := by
  unfold State.followOnStep
  dsimp only
  split
  · exact .of_same rfl rfl rfl rfl rfl (.inr rfl)
  · exact .of_same rfl rfl rfl rfl rfl (.inr rfl)

theorem ranges_becomeProving (s : State) : KeepsRanges s s.becomeProving :=
  ⟨rfl, fun h => ⟨h.1, fun e => LinkState.noConfusion e⟩,
    fun _ => sourcesOk_congr rfl (fun e => absurd (show LinkState.proving.lineIdle = true from e) (by decide)) rfl,
    contentionOk_congr rfl (.inl rfl)⟩

theorem ranges_pulse (s : State) (i : SourceNo) (hd : s.config.sources[i].discipline = .pulse) :
    KeepsRanges s (s.setSource i (s.sources[i].expirePulse s.config.sources[i])) := by
  refine ranges_setSource _ _ _ fun _ hs => ?_
  rw [expirePulse_eq_self (hs.inRange i) hd]
  exact ⟨hs.inRange i, fun hl => hs.offline hl i⟩

/-- Every event keeps the three ranges, a body beat that of the contention state with the transmit list in range. -/
theorem Events.ranges {s u : State} (h : Events s u) : (s.ListeningOk → u.ListeningOk) ∧
    (s.ConfigOk → s.SourcesOk → u.SourcesOk) ∧ (s.TransmitOk → s.ContentionOk → u.ContentionOk) := by
  have of {v : State} (hv : KeepsRanges s v) : (s.ListeningOk → v.ListeningOk) ∧
      (s.ConfigOk → s.SourcesOk → v.SourcesOk) ∧ (s.TransmitOk → s.ContentionOk → v.ContentionOk) :=
    ⟨hv.listening, hv.sources, fun _ => hv.contention⟩
  cases h with
  | nothing => exact of (.refl s)
  | pin p l => exact of (ranges_pinSettles s p l)
  | quiet => exact of (ranges_becomeQuiet s)
  | timers => exact of (.of_same rfl rfl rfl rfl rfl (.inl rfl))
  | starts own => exact of (ranges_startFrame s own)
  | enter l _ hp => exact of (ranges_enterStep s l hp)
  | frameEnd l => exact of (ranges_frameEndStep s l)
  | slot l _ hp => exact of (ranges_slotEnd s l hp)
  | word l _ hp => exact of (ranges_wordEnd s l hp)
  | body l _ hp =>
    obtain ⟨hc, hm, hs⟩ := bodyEnd_others s l
    exact ⟨listeningOk_congr (by rw [hm]) (by rw [hm]), fun _ => sourcesOk_congr hc (by rw [hm]; exact id) hs,
      contentionOk_bodyEnd s l hp⟩
  | followOn => exact of (ranges_followOnStep s)
  | closing => exact of (.of_same rfl rfl rfl rfl rfl (.inr rfl))
  | fall => exact of (ranges_fallSlb s)
  | withdraws => exact of (ranges_withdrawIfDue s)
  | proving _ => exact of ((ranges_becomeProving s).trans (ranges_record _ _))
  | peerLost n => exact of (ranges_losePeer s n)
  | pulse i hd => exact of (ranges_pulse s i hd)
  | holdLimit k =>
    have h : KeepsRanges s (s.abandonClaim k) := ranges_abandonAll [k] s
    exact of (h.trans (ranges_record _ _))
  | voidedOut => exact of (.of_same rfl rfl rfl rfl rfl (.inl rfl))
  | closed => exact of (ranges_frameClosed s)
  | brokenByStart =>
    exact of (.ite (fun _ => (ranges_breakFrame s).trans (ranges_startFrame _ _)) (fun _ => ranges_breakFrame s))
  | brokenByStop => exact of (.ite (fun _ => (ranges_breakFrame s).trans (ranges_unsync _)) (fun _ => ranges_breakFrame s))
  | lateLeaving => exact of (ranges_enterDetached s)
  | lateStart => exact of (ranges_startFrame s false)
  | lateStop => exact of (ranges_unsync s)
  | stuck => exact of (ranges_stall s)

section
variable {s v : State}

theorem Transacts.listeningOk (hv : Transacts s v) (h : s.ListeningOk) : v.ListeningOk := by
  cases hv with
  | joined =>
    unfold State.joinTaken
    dsimp only
    split <;> exact ⟨Nat.zero_le _, fun _ => Nat.zero_le _⟩
  | leaves => exact ⟨h.1, fun e => LinkState.noConfusion e⟩
  | detached => exact (ranges_enterDetached s).listening h
  | handedOn e older newer =>
    rw [handOn_others]
    exact listeningOk_congr (s := s) rfl rfl h
  | asserted i =>
    refine listeningOk_congr ?_ ?_ h <;> rw [(takeEdge_others _ _).1, setSource_membership]
  | released i => refine listeningOk_congr ?_ ?_ h <;> rw [setSource_membership]
  | nothing | countsRead | configured | finished | masked | posted | freed | cancelAsked => exact listeningOk_congr (s := s) rfl rfl h

theorem takesEdges_not_idle {l : LinkState} (h : l.takesEdges = true) : l.lineIdle ≠ true := by
  cases l <;> simp_all [LinkState.takesEdges, LinkState.lineIdle]

/-- R77, R78: a source configured anew is IDLE, since the station is DETACHED. -/
theorem Transacts.sourcesOk (hv : Transacts s v) (hc : s.ConfigOk) (h : s.SourcesOk) : v.SourcesOk := by
  cases hv with
  | configured c hl =>
    have hi : s.membership.link.lineIdle = true := by rw [hl]; rfl
    refine ⟨fun i => ?_, h.offline⟩
    have ho := (h.offline hi i).1
    exact .ofIdle _ ho ((h.inRange i).idle ho).1 ((h.inRange i).idle ho).2
  | joined =>
    unfold State.joinTaken
    dsimp only
    split <;> exact sourcesOk_congr (s := s) rfl (fun e => absurd e Bool.false_ne_true) rfl h
  | leaves => exact sourcesOk_congr (s := s) rfl (fun e => absurd e Bool.false_ne_true) rfl h
  | detached => exact (ranges_enterDetached s).sources hc h
  | handedOn e older newer =>
    rw [handOn_others]
    exact sourcesOk_congr (s := s) rfl id rfl h
  | asserted i hl =>
    refine KeepsRanges.sources (.trans (ranges_setSource s i _ fun _ hs => ?_) (ranges_takeEdge _ _)) hc h
    exact ⟨(hs.inRange i).congr rfl rfl rfl, fun e => absurd e (takesEdges_not_idle hl)⟩
  | released i =>
    refine KeepsRanges.sources (ranges_setSource s i _ fun _ hs => ?_) hc h
    exact ⟨(hs.inRange i).congr rfl rfl rfl, fun hl => ⟨(hs.offline hl i).1, (hs.offline hl i).2.1, rfl⟩⟩
  | nothing | countsRead | finished | masked | posted | freed | cancelAsked => exact sourcesOk_congr (s := s) rfl id rfl h

theorem takeEdge_contention (s : State) (i : SourceNo) : (s.takeEdge i).contention = s.contention := by
  unfold State.takeEdge
  split
  · exact setSource_contention _ _ _
  · rfl

theorem Transacts.contentionOk (hv : Transacts s v) (h : s.ContentionOk) : v.ContentionOk := by
  cases hv with
  | joined =>
    unfold State.joinTaken
    dsimp only
    split <;> exact contentionOk_congr (s := s) rfl (.inr rfl) h
  | detached => exact (ranges_enterDetached s).contention h
  | handedOn e older newer =>
    rw [handOn_others]
    exact contentionOk_congr (s := s) rfl (.inl rfl) h
  | asserted i =>
    refine contentionOk_congr ?_ (.inl ?_) h
    · rw [takeEdge_contention, setSource_contention]
    · rw [(takeEdge_others _ _).2, setSource_line]
  | released i => exact contentionOk_congr (setSource_contention _ _ _) (.inl (by rw [setSource_line])) h
  | nothing | countsRead | configured | leaves | finished | masked | posted | freed | cancelAsked =>
    exact contentionOk_congr (s := s) rfl (.inl rfl) h

theorem Transacts.configOk (hv : Transacts s v) (h : s.ConfigOk) : v.ConfigOk := by
  cases hv with
  | configured c hl hc => exact hc h
  | joined =>
    unfold State.joinTaken
    dsimp only
    split <;> exact configOk_congr (s := s) rfl h
  | detached => exact configOk_congr (keeps_enterDetached s).config h
  | handedOn e older newer =>
    rw [handOn_others]
    exact configOk_congr (s := s) rfl h
  | asserted i =>
    exact configOk_congr ((keeps_setSource s i { s.sources[i] with softActive := true }).trans (keeps_takeEdge _ i)).config h
  | released i => exact configOk_congr (setSource_config _ _ _) h
  | nothing | countsRead | leaves | finished | masked | posted | freed | cancelAsked => exact configOk_congr (s := s) rfl h

end

/-- TAKE leaves sources and contention state alone. -/
theorem taken_ranges (s : State) : s.taken.sources = s.sources ∧ s.taken.contention = s.contention := by
  have h : ∀ (u : State) (d : DeliveryNo), (u.takeFrom d).sources = u.sources ∧ (u.takeFrom d).contention = u.contention := by
    intro u d
    unfold State.takeFrom
    split
    · split <;> exact ⟨rfl, rfl⟩
    · exact ⟨rfl, rfl⟩
    · exact ⟨rfl, rfl⟩
    · split <;> exact ⟨rfl, rfl⟩
    · exact ⟨rfl, rfl⟩
  unfold State.taken
  split
  · exact ⟨rfl, rfl⟩
  · exact h _ _

theorem ranges_taken (s : State) : KeepsRanges s s.taken := by
  obtain ⟨hl, hm⟩ := taken_others s
  obtain ⟨hs, hc⟩ := taken_ranges s
  exact .of_same (taken_config s) (by rw [hm]) (by rw [hm]) hs hc (.inl (by rw [hl]))

/-! ## Every step -/

section
variable (a : Straps) (k : BitVec 11) (low : Bool) (n : Nat) (q : List Instr)

theorem resetTo_configOk : (State.resetTo a k low n q).ConfigOk := by
  refine ⟨show StationSection.reset.keepalive ≠ 0 by decide, show StationSection.reset.holdLimit ≠ 0 by decide, fun i => ?_⟩
  have h : (State.resetTo a k low n q).config.sources[i] = SourceConfig.reset := tableOf_get _ i
  rw [h]
  decide

theorem resetTo_rosterOk : (State.resetTo a k low n q).RosterOk := by
  intro m
  have h : (State.resetTo a k low n q).membership.roster[m] = RosterEntry.absent := tableOf_get _ m
  rw [h]
  exact rosterEntry_absent_inRange

theorem resetTo_imageOk : (State.resetTo a k low n q).ImageOk := by
  intro j
  have h : (State.resetTo a k low n q).image.lines[j] = LineRecord.reset := tableOf_get _ j
  rw [h]
  exact lineReset_inRange

theorem resetTo_queuesOk : (State.resetTo a k low n q).QueuesOk :=
  ⟨Nat.zero_le _, Nat.zero_le _, Nat.zero_le _, Nat.zero_le _, Nat.zero_le _⟩

theorem resetTo_serviceOk : (State.resetTo a k low n q).ServiceOk :=
  ⟨Nat.zero_le _, List.nodup_nil, List.nodup_nil, fun _ h => (List.not_mem_nil h).elim, show (1 : Byte) ≠ 0 by decide⟩

theorem resetTo_transmitOk : (State.resetTo a k low n q).TransmitOk := by
  have h (g : Handle) : (State.resetTo a k low n q).sender.entries[g] = none := tableOf_get _ g
  refine (transmitOk_iff _).mpr (.ofEntries (fun g => ?_) (fun g => ?_) List.nodup_nil List.nodup_nil fun g e he => ?_)
  · rw [h]
    exact ⟨fun h => (List.not_mem_nil h).elim, fun h => absurd h Bool.false_ne_true⟩
  · rw [h]
    exact ⟨fun h => (List.not_mem_nil h).elim, fun h => absurd h Bool.false_ne_true⟩
  · rw [h] at he
    cases he

theorem resetTo_sourcesOk : (State.resetTo a k low n q).SourcesOk :=
  sourcesOk_cleared fun i => ⟨.reset, tableOf_get _ i⟩

theorem resetTo_contentionOk : (State.resetTo a k low n q).ContentionOk := contentionOk_at (p := LineController.reset.phase) rfl (empty_inRange _ (by decide))

end

theorem tallyOk_invariant : StepInvariant State.TallyOk where
  queue _ _ := tallyOk_congr rfl rfl
  settled _ _ := tallyOk_congr rfl rfl
  reset _ _ _ _ _ := rfl
  clock _ := tallyOk_congr rfl rfl
  take s := (records_taken s).tally
  transaction _ v _ h hv _ := tallyOk_congr (s := v) rfl rfl (hv.records.tally h)
  round s := (records_settleRound s).tally
  event _ _ h hu := hu.records.tally h

theorem rosterOk_invariant : StepInvariant State.RosterOk where
  queue _ _ := rosterOk_congr rfl
  settled _ _ := rosterOk_congr rfl
  reset := resetTo_rosterOk
  clock _ := rosterOk_congr rfl
  take s := (records_taken s).roster
  transaction _ v _ h hv _ := rosterOk_congr (s := v) rfl (hv.records.roster h)
  round s := (records_settleRound s).roster
  event _ _ h hu := hu.records.roster h

theorem imageOk_invariant : StepInvariant State.ImageOk where
  queue _ _ := imageOk_congr rfl
  settled _ _ := imageOk_congr rfl
  reset := resetTo_imageOk
  clock s := imageOk_congr (by rw [clockPeriod_image])
  take s := (records_taken s).image
  transaction _ v _ h hv _ := imageOk_congr (s := v) rfl (hv.records.image h)
  round s := (records_settleRound s).image
  event _ _ h hu := hu.records.image h

theorem queuesOk_invariant : StepInvariant State.QueuesOk where
  queue _ _ := queuesOk_congr id rfl
  settled _ _ := queuesOk_congr id rfl
  reset := resetTo_queuesOk
  clock s := queuesOk_congr id (clockPeriod_receiver s)
  take s := (records_taken s).queues
  transaction _ v _ h hv _ := queuesOk_congr (s := v) id rfl (hv.records.queues h)
  round s := (records_settleRound s).queues
  event _ _ h hu := hu.records.queues h

theorem transmitOk_invariant : StepInvariant State.TransmitOk where
  queue _ _ := transmitOk_congr rfl
  settled _ _ := transmitOk_congr rfl
  reset := resetTo_transmitOk
  clock s := transmitOk_congr (clockPeriod_sender s)
  take s := (records_taken s).transmit
  transaction _ v _ h hv _ := transmitOk_congr (s := v) rfl (hv.records.transmit h)
  round s := (records_settleRound s).transmit
  event _ _ h hu := hu.records.transmit h

theorem serviceOk_invariant : StepInvariant State.ServiceOk where
  queue _ _ := serviceOk_dispatch rfl rfl
  settled _ _ := serviceOk_dispatch rfl rfl
  reset := resetTo_serviceOk
  clock s := serviceOk_dispatch (by rw [clockPeriod_dispatch]) (by rw [clockPeriod_dispatch])
  take _ := serviceOk_taken
  transaction _ v _ h hv _ := serviceOk_dispatch (s := v) rfl rfl (hv.serviceOk h)
  round s := (keeps_settleRound s).serviceOk
  event _ _ h hu := hu.keeps.serviceOk h

theorem configOk_invariant : StepInvariant State.ConfigOk where
  queue _ _ := configOk_congr rfl
  settled _ _ := configOk_congr rfl
  reset := resetTo_configOk
  clock s := configOk_congr (clockPeriod_config s)
  take s := configOk_congr (taken_config s)
  transaction _ v _ h hv _ := configOk_congr (s := v) rfl (hv.configOk h)
  round s := configOk_congr (settleRound_config s)
  event _ _ h hu := configOk_congr hu.keeps.config h

theorem listeningOk_invariant : StepInvariant State.ListeningOk where
  queue _ _ := listeningOk_congr rfl rfl
  settled _ _ := listeningOk_congr rfl rfl
  reset _ _ _ _ _ := ⟨Nat.zero_le _, fun _ => Nat.zero_le _⟩
  clock _ := listeningOk_congr rfl rfl
  take s := (ranges_taken s).listening
  transaction _ v _ h hv _ := listeningOk_congr (s := v) rfl rfl (hv.listeningOk h)
  round s := (ranges_settleRound s).listening
  event _ _ h hu := hu.ranges.1 h

theorem portOk_congr {s u : State} (hp : u.port = s.port) (h : s.PortOk) : u.PortOk := by
  obtain ⟨h1, h2, h3⟩ := h
  constructor <;> rw [hp] <;> assumption

theorem ended_portOk {s : State} (h : s.port.Ended) : s.PortOk := by
  obtain h | ⟨st, bytes, reset, h⟩ := h
  · exact idle_portOk h
  · refine ⟨fun e => ?_, fun _ e => ?_, fun _ => ?_⟩ <;> rw [h] at *
    · exact absurd rfl e
    · exact PortPhase.noConfusion e
    · exact ⟨List.cons_ne_nil _ _, Nat.zero_le _⟩

theorem portOk_invariant : StepInvariant State.PortOk where
  queue _ _ := portOk_congr rfl
  settled _ _ := portOk_congr rfl
  reset _ _ low _ _ := afterPinReset_portOk low rfl
  clock s h := portOk_congr (clockPeriod_port s) (portPeriod_portOk s h)
  take s h := by
    unfold State.taken
    split
    · exact portOk_congr (s := s.answer .empty [flagByte s.dispatch.withdrawn]) rfl (answer_portOk s .empty [flagByte s.dispatch.withdrawn])
    · next d _ =>
      exact portOk_congr (s := ((s.openEntry d).takeFrom d).answer .ok (s.deliveryHeader d ++ s.payload d)) rfl
          (answer_portOk _ _ _)
  transaction _ _ _ _ _ hp := ended_portOk hp
  round s := portOk_congr (keeps_settleRound s).port
  event _ _ h hu := portOk_congr hu.keeps.port h

theorem sourcesOk_invariant : StepInvariant fun s => s.ConfigOk ∧ s.SourcesOk where
  queue s _ h := ⟨configOk_congr (s := s) rfl h.1, sourcesOk_congr (s := s) rfl id rfl h.2⟩
  settled _ u h := ⟨configOk_congr (s := u) rfl h.1, sourcesOk_congr (s := u) rfl id rfl h.2⟩
  reset a k low n q := ⟨resetTo_configOk a k low n q, resetTo_sourcesOk a k low n q⟩
  clock s h := ⟨configOk_congr (clockPeriod_config s) h.1, sourcesOk_congr (clockPeriod_config s) id (clockPeriod_sources s) h.2⟩
  take s h := ⟨configOk_congr (taken_config s) h.1, (ranges_taken s).sources h.1 h.2⟩
  transaction _ v _ h hv _ :=
    ⟨configOk_congr (s := v) rfl (hv.configOk h.1), sourcesOk_congr (s := v) rfl id rfl (hv.sourcesOk h.1 h.2)⟩
  round s h := ⟨configOk_congr (settleRound_config s) h.1, (ranges_settleRound s).sources h.1 h.2⟩
  event _ _ h hu := ⟨configOk_congr hu.keeps.config h.1, hu.ranges.2.1 h.1 h.2⟩

theorem contentionOk_invariant : StepInvariant fun s => s.TransmitOk ∧ s.ContentionOk where
  queue s _ h := ⟨transmitOk_congr (s := s) rfl h.1, contentionOk_congr (s := s) rfl (.inl rfl) h.2⟩
  settled _ u h := ⟨transmitOk_congr (s := u) rfl h.1, contentionOk_congr (s := u) rfl (.inl rfl) h.2⟩
  reset a k low n q := ⟨resetTo_transmitOk a k low n q, resetTo_contentionOk a k low n q⟩
  clock s h := ⟨transmitOk_congr (clockPeriod_sender s) h.1,
    contentionOk_congr (clockPeriod_contention s) (.inl (by rw [clockPeriod_line])) h.2⟩
  take s h := ⟨(records_taken s).transmit h.1, (ranges_taken s).contention h.2⟩
  transaction _ v _ h hv _ :=
    ⟨transmitOk_congr (s := v) rfl (hv.records.transmit h.1), contentionOk_congr (s := v) rfl (.inl rfl) (hv.contentionOk h.2)⟩
  round s h := ⟨(records_settleRound s).transmit h.1, (ranges_settleRound s).contention h.2⟩
  event _ _ h hu := ⟨hu.records.transmit h.1, hu.ranges.2.2 h.1 h.2⟩

end Sys2Proof.Machine

namespace Sys2Proof

open Machine

/-- Settles O57: each range is an invariant of the step, that of the sources with the configuration's, and that of the contention
state with the transmit list's. -/
theorem stepKeepsRecordsAndListsInRange : Obligations.StepKeepsRecordsAndListsInRange := by
  intro s t h
  exact ⟨fun hs => tallyOk_invariant.step hs h, fun hs => rosterOk_invariant.step hs h,
    fun hs => imageOk_invariant.step hs h, fun hs => queuesOk_invariant.step hs h, fun hs => serviceOk_invariant.step hs h,
    fun hs => transmitOk_invariant.step hs h, fun hs => configOk_invariant.step hs h,
    fun hs => listeningOk_invariant.step hs h, fun hs => portOk_invariant.step hs h,
    fun hc hs => (sourcesOk_invariant.step ⟨hc, hs⟩ h).2, fun ht hs => (contentionOk_invariant.step ⟨ht, hs⟩ h).2⟩

end Sys2Proof
end

section
/-! SUPPORT. Claims, serve flags and entries in service at every step, and the consistency of claims and deliveries (O59). -/

namespace Sys2Proof.Machine

open Sys2Proof

/-! ## Lines and their sources (10.1) -/

theorem deliverySource_lineDelivery (k : LineNo) : deliverySource (lineDelivery k) = .line k := by
  unfold deliverySource lineDelivery
  rw [dif_pos k.isLt]

theorem deliverySource_eq_line {d : DeliveryNo} {k : LineNo} (h : deliverySource d = .line k) : d = lineDelivery k := by
  unfold deliverySource at h
  split at h
  · obtain rfl := DeliverySource.line.inj h
    rfl
  · split_ifs at h

theorem lineDelivery_injective {j k : LineNo} (h : lineDelivery j = lineDelivery k) : j = k :=
  Fin.ext (Fin.mk.inj h)

/-! ## Bids that end -/

/-- A claim record stays, or it was CONTENDING or WON and is now IDLE or WON: what a round's end and a frame that is not accepted
do to a record (R109, R111). -/
def ClaimState.BidsOn (r r' : ClaimState) : Prop := r' = r ∨ (r = .contending ∨ r = .won) ∧ (r' = .idle ∨ r' = .won)

/-- Every record as `ClaimState.BidsOn` tells, the mark-owed flags left. -/
def Claims.BidsOn (c c' : Claims) : Prop := c'.markOwed = c.markOwed ∧ ∀ k : LineNo, c.records[k].BidsOn c'.records[k]

theorem Claims.BidsOn.refl (c : Claims) : c.BidsOn c := ⟨rfl, fun _ => .inl rfl⟩

theorem ClaimState.BidsOn.trans {a b c : ClaimState} (h : a.BidsOn b) (h' : b.BidsOn c) : a.BidsOn c := by
  obtain rfl | ⟨ha, hb⟩ := h
  · exact h'
  · obtain rfl | ⟨-, hc⟩ := h'
    · exact .inr ⟨ha, hb⟩
    · exact .inr ⟨ha, hc⟩

theorem Claims.BidsOn.trans {a b c : Claims} (h : a.BidsOn b) (h' : b.BidsOn c) : a.BidsOn c :=
  ⟨h'.1.trans h.1, fun k => (h.2 k).trans (h'.2 k)⟩

theorem setRecord_markOwed (c : Claims) (k : LineNo) (r : ClaimState) : (c.setRecord k r).markOwed = c.markOwed := by
  simp only [Claims.setRecord]

theorem setRecord_get (c : Claims) (k j : LineNo) (r : ClaimState) :
    (c.setRecord k r).records[j] = if j = k then r else c.records[j] := tablePut_get _ _ _ _

theorem dropWon_markOwed (c : Claims) : c.dropWon.markOwed = c.markOwed := by simp only [Claims.dropWon]

theorem dropWon_get (c : Claims) (k : LineNo) :
    c.dropWon.records[k] = if c.records[k] = .won then .idle else c.records[k] := tableOf_get _ k

/-- One record written as `ClaimState.BidsOn` tells. -/
theorem bidsOn_setRecord (c : Claims) (k : LineNo) {r : ClaimState} (h : c.records[k].BidsOn r) : c.BidsOn (c.setRecord k r) := by
  refine ⟨setRecord_markOwed c k r, fun j => ?_⟩
  rw [setRecord_get]
  split
  · next e => exact e ▸ h
  · exact .inl rfl

theorem bidsOn_handBack (c : Claims) (k : LineNo) : c.BidsOn (c.handBack k) := by
  unfold Claims.handBack
  split
  · next h => exact bidsOn_setRecord c k (.inr ⟨.inl h, .inl rfl⟩)
  · exact .refl c

theorem bidsOn_win (c : Claims) (k : LineNo) : c.BidsOn (c.win k) := by
  unfold Claims.win
  split
  · next h => exact bidsOn_setRecord c k (.inr ⟨.inl h, .inr rfl⟩)
  · exact .refl c

theorem bidsOn_dropWon (c : Claims) : c.BidsOn c.dropWon := by
  refine ⟨dropWon_markOwed c, fun k => ?_⟩
  rw [dropWon_get]
  split
  · next h => exact .inr ⟨.inr h, .inl rfl⟩
  · exact .inl rfl

section
variable (s : State)

theorem bidsOn_handBackOffered : s.claims.BidsOn s.handBackOffered.claims := by
  unfold State.handBackOffered
  dsimp only
  split
  · exact .refl _
  · exact .refl _
  · next k _ => exact bidsOn_handBack s.claims k
  · exact .refl _

theorem bidsOn_tellWon : s.claims.BidsOn s.tellWon.claims := by
  unfold State.tellWon
  split
  · next k _ => exact bidsOn_win s.claims k
  · exact .refl _
  · exact .refl _
  · exact .refl _

theorem bidsOn_endRound : s.claims.BidsOn s.endRound.claims := by
  have hround : ∀ u : State,
      u.claims.BidsOn (if u.contention.role = .contender then u.tellWon else u.handBackOffered).claims := by
    intro u
    split
    · exact bidsOn_tellWon u
    · exact bidsOn_handBackOffered u
  have hcheck : (if s.checkDiffers then s.checkFault else s).claims = s.claims := by split <;> rfl
  have h := hround (if s.checkDiffers then s.checkFault else s)
  rw [hcheck] at h
  exact h

theorem bidsOn_settleRound : s.claims.BidsOn s.settleRound.claims := by
  unfold State.settleRound
  split
  · exact bidsOn_endRound s
  · exact .refl _

theorem bidsOn_enterSampled (drove : Bool) (l : Level) : s.claims.BidsOn (s.enterSampled drove l).claims := by
  cases l with
  | dominant => exact .refl _
  | recessive =>
    unfold State.enterSampled
    dsimp only
    rw [countBeat_claims]
    split
    · exact bidsOn_handBackOffered (s.driveFault false)
    · exact .refl _

theorem slotEnd_claims (l : Level) : (s.slotEnd l).claims = s.claims := by
  unfold State.slotEnd
  dsimp only
  split_ifs <;> rfl

theorem wordEnd_claims (l : Level) : (s.wordEnd l).claims = s.claims := by
  unfold State.wordEnd
  dsimp only
  split_ifs <;> rfl

theorem bodyEnd_claims (l : Level) : (s.bodyEnd l).claims = s.claims := by
  unfold State.bodyEnd
  dsimp only
  split_ifs <;> rfl

theorem followOnStep_claims : s.followOnStep.claims = s.claims := by
  unfold State.followOnStep
  dsimp only
  split_ifs <;> rfl

end

/-! ## What keeps the claims consistent -/

/-- The configuration left, and with a configuration in range the consistency of claims and deliveries kept. -/
structure KeepsClaims (s u : State) : Prop where
  config : u.config = s.config
  claims : s.ConfigOk → s.ClaimsOk → u.ClaimsOk

theorem KeepsClaims.refl (s : State) : KeepsClaims s s := ⟨rfl, fun _ => id⟩

theorem KeepsClaims.trans {s t u : State} (h : KeepsClaims s t) (k : KeepsClaims t u) : KeepsClaims s u :=
  ⟨k.config.trans h.config, fun hc hs => k.claims (configOk_congr h.config hc) (h.claims hc hs)⟩

theorem KeepsClaims.ite {s u v : State} {c : Prop} [Decidable c] (hu : c → KeepsClaims s u) (hv : ¬ c → KeepsClaims s v) :
    KeepsClaims s (if c then u else v) := by
  split
  · next h => exact hu h
  · next h => exact hv h

/-- Bids that end, with configuration and deliveries left and the station no further off the line. -/
theorem claimsOk_of_bidsOn {s u : State} (hconf : u.config = s.config) (hb : s.claims.BidsOn u.claims)
    (hi : u.dispatch.inService = s.dispatch.inService) (hf : u.dispatch.serveFlags = s.dispatch.serveFlags)
    (he : u.dispatch.edgeFlags = s.dispatch.edgeFlags)
    (hl : u.membership.link.lineIdle = true → s.membership.link.lineIdle = true) (h : s.ClaimsOk) : u.ClaimsOk := by
  obtain ⟨hm, hr⟩ := hb
  have howned : ∀ (k : LineNo) (n : Nat), s.claims.records[k] = .owned n → u.claims.records[k] = .owned n := by
    intro k n hk
    obtain hu | ⟨hs | hs, -⟩ := hr k
    · exact hu.trans hk
    · exact absurd (hs.symm.trans hk) (by simp)
    · exact absurd (hs.symm.trans hk) (by simp)
  constructor
  case served =>
    intro k hk
    rw [hconf]
    obtain hu | ⟨hs | hs, -⟩ := hr k
    · exact h.served k (hu ▸ hk)
    · exact h.served k (by rw [hs]; simp)
    · exact h.served k (by rw [hs]; simp)
  case watched => rw [hm, hconf]; exact h.watched
  case watchEntry => rw [hi, hconf]; exact h.watchEntry
  case serveEntry =>
    rw [hi]
    intro e hm hk ho
    obtain ⟨k, n, hsrc, hn⟩ := h.serveEntry e hm hk ho
    exact ⟨k, n, hsrc, howned k n hn⟩
  case serveFlag =>
    rw [hi, hf]
    intro k hk
    obtain ⟨⟨n, hn⟩, hfree⟩ := h.serveFlag k hk
    exact ⟨⟨n, howned k n hn⟩, hfree⟩
  case bidding =>
    rw [hi]
    intro k hk
    obtain hu | ⟨hs, -⟩ := hr k
    · exact h.bidding k (hu ▸ hk)
    · exact h.bidding k hs
  case sources => rw [hi]; exact h.sources
  case offline =>
    intro hlu k
    obtain ⟨hidle, hmark, hflag, hedge⟩ := h.offline (hl hlu) k
    refine ⟨?_, hm ▸ hmark, hf ▸ hflag, he ▸ hedge⟩
    obtain hu | ⟨hs | hs, -⟩ := hr k
    · exact hu.trans hidle
    · exact absurd (hidle.symm.trans hs) (by simp)
    · exact absurd (hidle.symm.trans hs) (by simp)
  case counter =>
    intro k n hk
    rw [show u.holdLimit = s.holdLimit by unfold State.holdLimit; rw [hconf]]
    obtain hu | ⟨-, hu | hu⟩ := hr k
    · exact h.counter k n (hu ▸ hk)
    · exact absurd (hu.symm.trans hk) (by simp)
    · exact absurd (hu.symm.trans hk) (by simp)
  case offlineEntries => rw [hi]; exact fun hlu => h.offlineEntries (hl hlu)

/-- Configuration, claims and deliveries left, the station no further off the line. -/
theorem claimsOk_congr {s u : State} (hconf : u.config = s.config) (hc : u.claims = s.claims)
    (hi : u.dispatch.inService = s.dispatch.inService) (hf : u.dispatch.serveFlags = s.dispatch.serveFlags)
    (he : u.dispatch.edgeFlags = s.dispatch.edgeFlags)
    (hl : u.membership.link.lineIdle = true → s.membership.link.lineIdle = true) (h : s.ClaimsOk) : u.ClaimsOk :=
  claimsOk_of_bidsOn hconf (hc ▸ .refl _) hi hf he hl h

theorem KeepsClaims.of_same {s u : State} (hconf : u.config = s.config) (hc : u.claims = s.claims)
    (hd : u.dispatch = s.dispatch) (hl : u.membership.link.lineIdle = true → s.membership.link.lineIdle = true) :
    KeepsClaims s u :=
  ⟨hconf, fun _ => claimsOk_congr hconf hc (by rw [hd]) (by rw [hd]) (by rw [hd]) hl⟩

/-- A beat that at most ends bids. -/
theorem KeepsClaims.of_beat {s u : State} (h : BeatKeeps s u) (hb : s.claims.BidsOn u.claims) : KeepsClaims s u :=
  ⟨h.config, fun _ => claimsOk_of_bidsOn h.config hb (by rw [h.dispatch]) (by rw [h.dispatch]) (by rw [h.dispatch])
    (by rw [h.membership]; exact id)⟩

/-- R119, R167: no claim and no flag, and every line entry orphaned. -/
theorem claimsOk_emptied {s u : State} (hc : u.claims = .reset) (hd : u.dispatch = s.dispatch.detach) (h : s.ClaimsOk) :
    u.ClaimsOk := by
  have hr (k : LineNo) : u.claims.records[k] = .idle := by rw [hc]; exact tableOf_get _ k
  have hm (k : LineNo) : u.claims.markOwed[k] = false := by rw [hc]; exact tableOf_get _ k
  have hf (k : LineNo) : u.dispatch.serveFlags[k] = false := by rw [hd]; exact tableOf_get _ k
  have he (k : LineNo) : u.dispatch.edgeFlags[k] = false := by rw [hd]; exact tableOf_get _ k
  have horphaned : ∀ e ∈ u.dispatch.inService, e.kind.ofLine = true → e.orphaned = true := by
    rw [hd]
    intro e hm hk
    obtain ⟨f, -, rfl⟩ := List.mem_map.mp hm
    split
    · rfl
    · next hn =>
      rw [if_neg hn] at hk
      exact absurd hk hn
  have hlive : ∀ e ∈ u.dispatch.inService, e.kind.ofLine = true → e.orphaned = false → False := fun e hm hk ho =>
    Bool.false_ne_true (ho.symm.trans (horphaned e hm hk))
  constructor
  case served => exact fun k h => absurd (hr k) h
  case watched => exact fun k h => absurd ((hm k).symm.trans h) Bool.false_ne_true
  case watchEntry => exact fun e hm hk ho => (hlive e hm (hk ▸ rfl) ho).elim
  case serveEntry => exact fun e hm hk ho => (hlive e hm (hk ▸ rfl) ho).elim
  case serveFlag => exact fun k h => absurd ((hf k).symm.trans h) Bool.false_ne_true
  case bidding => exact fun k h => by rw [hr k] at h; simp at h
  case sources =>
    have hsrc : u.dispatch.inService.map (·.source) = s.dispatch.inService.map (·.source) := by
      rw [hd]
      simp only [Dispatch.detach, List.map_map]
      refine List.map_congr_left fun e _ => ?_
      simp only [Function.comp_apply]
      split <;> rfl
    exact hsrc ▸ h.sources
  case offline => exact fun _ k => ⟨hr k, hm k, hf k, he k⟩
  case counter => exact fun k n h => absurd ((hr k).symm.trans h) (by simp)
  case offlineEntries => exact fun _ => horphaned

/-! ## Events, link changes and rounds -/

section
variable (s : State)

theorem claims_record (e : StationEvent) : KeepsClaims s (s.record e) := .of_same rfl rfl rfl id

theorem claims_recordGroups (m c : List StationEvent) : KeepsClaims s (s.recordGroups m c) := by
  rw [recordGroups_eq]
  exact .of_same rfl rfl rfl id

theorem claims_setTally (t : Nat) : KeepsClaims s (s.setTally t) := by
  rw [setTally_eq]
  exact .of_same rfl rfl rfl id

theorem claims_handBackOffered : KeepsClaims s s.handBackOffered :=
  .of_beat (beat_handBackOffered s) (bidsOn_handBackOffered s)

theorem claims_setSource (i : SourceNo) (r : SourceRun) : KeepsClaims s (s.setSource i r) :=
  .of_same (setSource_config _ _ _) (setSource_claims _ _ _) (setSource_dispatch _ _ _) (by rw [setSource_membership]; exact id)

theorem claims_takeEdge (i : SourceNo) : KeepsClaims s (s.takeEdge i) :=
  .ite (fun _ => claims_setSource _ _ _) (fun _ => .refl s)

theorem claims_detachBlocks : KeepsClaims s s.detachBlocks :=
  (claims_handBackOffered s).trans ⟨rfl, fun _ => claimsOk_emptied (s := s.handBackOffered) rfl rfl⟩

theorem claims_enterDetached : KeepsClaims s s.enterDetached := (claims_detachBlocks s).trans (claims_recordGroups _ _ _)

theorem claims_enterWithdrawn : KeepsClaims s s.enterWithdrawn :=
  .trans (t := s.withdrawBlocks)
    ((claims_handBackOffered s).trans ⟨rfl, fun _ => claimsOk_emptied (s := s.handBackOffered) rfl rfl⟩)
    (claims_recordGroups _ _ _)

theorem claims_withdrawIfDue : KeepsClaims s s.withdrawIfDue := .ite (fun _ => claims_enterWithdrawn s) (fun _ => .refl s)

theorem claims_startFrame (own : Bool) : KeepsClaims s (s.startFrame own) := .of_same rfl rfl rfl id

theorem claims_unsync : KeepsClaims s s.unsync := .of_same rfl rfl rfl id

theorem claims_settleRound : KeepsClaims s s.settleRound := .of_beat (beat_settleRound s) (bidsOn_settleRound s)

theorem claims_dropFrame : KeepsClaims s s.dropFrame := by
  unfold State.dropFrame
  exact ⟨rfl, fun _ => claimsOk_of_bidsOn rfl (bidsOn_dropWon s.claims) rfl rfl rfl id⟩

theorem claims_dropStuck : KeepsClaims s s.dropStuck := by
  unfold State.dropStuck
  exact ⟨rfl, fun _ => claimsOk_of_bidsOn rfl (bidsOn_dropWon s.claims) rfl rfl rfl id⟩

theorem claims_breakFrame : KeepsClaims s s.breakFrame := by
  unfold State.breakFrame
  dsimp only
  refine .ite (fun _ => .trans ?_ (claims_enterDetached _)) (fun _ => .trans ?_ (claims_withdrawIfDue _))
  all_goals
    refine .trans (.trans (.trans ?_ (claims_setTally _ _)) (claims_dropFrame _)) (claims_handBackOffered _)
    exact .of_same rfl rfl rfl id

theorem remembered_not_idle (r : Remembered) : r.link.lineIdle ≠ true := by cases r <;> decide

theorem claims_becomeQuiet : KeepsClaims s s.becomeQuiet := by
  unfold State.becomeQuiet
  dsimp only
  refine .ite (fun _ => ?_) (fun _ => .of_same rfl rfl rfl id)
  unfold State.stallReturn
  split
  · exact .of_same rfl rfl rfl id
  · next r _ =>
    refine .trans ?_ (claims_record _ _)
    exact .of_same rfl rfl rfl fun h => absurd h (remembered_not_idle r)

theorem claims_frameClosed : KeepsClaims s s.frameClosed := by
  unfold State.frameClosed
  dsimp only
  refine .ite (fun _ => .trans ?_ (claims_enterDetached _)) (fun _ => ?_) <;> exact .of_same rfl rfl rfl id

theorem claims_stall : KeepsClaims s s.stall := by
  unfold State.stall
  dsimp only
  refine .trans ((claims_dropStuck s).trans (claims_handBackOffered _)) ?_
  split
  · refine .trans ?_ (claims_record _ _)
    exact .of_same rfl rfl rfl fun h => absurd h Bool.false_ne_true
  · split
    · refine .trans ?_ (claims_enterDetached _)
      exact .of_same rfl rfl rfl id
    · exact .of_same rfl rfl rfl id

end

/-! ## A claim offered (R106, R108) -/

theorem candidate_claimable {s : State} {k : LineNo} (h : Item.claim k ∈ s.candidates) :
    s.membership.link = .joined ∧ s.membership.level ≠ .muted ∧ s.claimable k = true := by
  unfold State.candidates at h
  split at h
  · cases h
  · next hm =>
    split at h
    · split at h
      · rw [List.mem_singleton] at h
        cases h
      · cases h
    · next hl =>
      rw [List.mem_append] at h
      obtain h | h := h
      · obtain ⟨j, hj, e⟩ := List.mem_map.mp h
        obtain rfl := Item.claim.inj e
        exact ⟨hl, hm, (List.mem_filter.mp hj).2⟩
      · obtain ⟨_, -, e⟩ := List.mem_map.mp h
        cases e
    all_goals cases h

/-- R106: the first five conditions of a claim. -/
theorem mayClaim_iff (s : State) (k : LineNo) : s.mayClaim k = true ↔
    s.membership.link = .joined ∧ s.membership.level ≠ .muted ∧ s.config.lines[k].role = .serve ∧
      s.claims.records[k] = .idle ∧ s.dispatch.serveFlags[k] = false ∧
      (∀ e ∈ s.dispatch.inService, e.source ≠ lineDelivery k) ∧ s.image.lines[k].owner = .nobody := by
  simp [State.mayClaim, and_assoc]

theorem claimsOk_claimed {s u : State} {k : LineNo} (hk : s.mayClaim k = true) (hconf : u.config = s.config)
    (hc : u.claims = s.claims.setRecord k .contending) (hd : u.dispatch = s.dispatch) (hm : u.membership = s.membership)
    (h : s.ClaimsOk) : u.ClaimsOk := by
  obtain ⟨hlink, -, hrole, hidle, hflag, hfree, -⟩ := (mayClaim_iff s k).mp hk
  have hr (j : LineNo) : u.claims.records[j] = if j = k then .contending else s.claims.records[j] := by
    rw [hc, setRecord_get]
  have howned (j : LineNo) (n : Nat) : u.claims.records[j] = .owned n ↔ s.claims.records[j] = .owned n := by
    rw [hr]
    split
    · next e => rw [e, hidle]; simp
    · rfl
  have honline : s.membership.link.lineIdle ≠ true := by rw [hlink]; decide
  constructor
  case served =>
    intro j hj
    rw [hconf]
    rw [hr] at hj
    split at hj
    · next e => exact e ▸ hrole
    · exact h.served j hj
  case watched => rw [hc, setRecord_markOwed, hconf]; exact h.watched
  case watchEntry => rw [hd, hconf]; exact h.watchEntry
  case serveEntry => simpa only [hd, howned] using h.serveEntry
  case serveFlag => simpa only [hd, howned] using h.serveFlag
  case bidding =>
    intro j hj
    rw [hd]
    rw [hr] at hj
    split at hj
    · next e => exact e ▸ hfree
    · exact h.bidding j hj
  case sources => rw [hd]; exact h.sources
  case offline => rw [hm]; exact fun hi => absurd hi honline
  case counter =>
    intro j n hj
    rw [show u.holdLimit = s.holdLimit by unfold State.holdLimit; rw [hconf]]
    exact h.counter j n ((howned j n).mp hj)
  case offlineEntries => rw [hm]; exact fun hi => absurd hi honline

theorem claims_offer_candidate (s : State) : KeepsClaims s (s.offer (s.lowestItem s.candidates)) := by
  unfold State.offer
  split
  · exact .of_same rfl rfl rfl id
  · exact .of_same rfl rfl rfl id
  · next k hk =>
    obtain ⟨-, -, hclaimable⟩ := candidate_claimable (lowestItem_mem hk)
    simp only [State.claimable, Bool.and_eq_true] at hclaimable
    obtain ⟨⟨⟨hmay, -⟩, -⟩, -⟩ := hclaimable
    exact ⟨rfl, fun _ => claimsOk_claimed hmay rfl rfl rfl rfl⟩
  · exact .of_same rfl rfl rfl id

theorem claims_enterFall (s : State) : KeepsClaims s s.enterFall := by
  refine .trans (claims_offer_candidate s) ?_
  exact .of_same rfl rfl rfl id

theorem claims_enterSampled (s : State) (drove : Bool) (l : Level) : KeepsClaims s (s.enterSampled drove l) :=
  .of_beat (beat_enterSampled s drove l) (bidsOn_enterSampled s drove l)

theorem claims_enterStep (s : State) (l : Level) : KeepsClaims s (s.enterStep l) := by
  unfold State.enterStep
  dsimp only
  split
  · exact claims_enterSampled _ _ _
  · exact (claims_enterFall s).trans (claims_enterSampled _ _ _)

theorem claims_fallSlb (s : State) : KeepsClaims s s.fallSlb := by
  unfold State.fallSlb
  refine .ite (fun _ => claims_enterFall s) (fun _ => .ite (fun _ => ?_) (fun _ => ?_))
  · exact .of_same rfl rfl rfl id
  · exact .of_same rfl rfl rfl id

end Sys2Proof.Machine
end

section
/-! SUPPORT. Claims and deliveries at an accepted frame, at TAKE and at FINISH, and their consistency as an invariant of the step
(O59). -/

namespace Sys2Proof.Machine

open Sys2Proof

/-! ## The claim records at an accepted frame (R110, R112, R116) -/

section
variable (s : State) (k : LineNo)

theorem claimAfter_idle (h : s.claims.records[k] = .idle) : s.claimAfter k = .idle := by
  unfold State.claimAfter
  rw [h]

theorem claimAfter_contending (h : s.claims.records[k] = .contending) : s.claimAfter k = .contending := by
  unfold State.claimAfter
  rw [h]

theorem claimAfter_owned {n : Nat} (h : s.claims.records[k] = .owned n) : s.claimAfter k = .owned (n + 1) := by
  unfold State.claimAfter
  rw [h]

theorem claimAfter_won (h : s.claims.records[k] = .won) : s.claimAfter k = if s.soleClaim k then .owned 0 else .idle := by
  unfold State.claimAfter
  rw [h]

theorem claimAfter_releasing (h : s.claims.records[k] = .releasing) :
    s.claimAfter k = if s.line.plan.mark[k] = .dominant then .idle else .releasing := by
  unfold State.claimAfter
  rw [h]

theorem claimAfter_bidding (h : s.claimAfter k = .contending ∨ s.claimAfter k = .won) : s.claims.records[k] = .contending := by
  cases hr : s.claims.records[k] with
  | contending => rfl
  | idle => rw [claimAfter_idle s k hr] at h; simp at h
  | owned n => rw [claimAfter_owned s k hr] at h; simp at h
  | won => rw [claimAfter_won s k hr] at h; split at h <;> simp at h
  | releasing => rw [claimAfter_releasing s k hr] at h; split at h <;> simp at h

theorem becomesOwned_iff : s.becomesOwned k = true ↔ s.claims.records[k] = .won ∧ s.soleClaim k = true := by
  simp [State.becomesOwned]

theorem acceptBlocks_records : s.acceptBlocks.claims.records[k] = s.claimAfter k := by
  dsimp only [State.acceptBlocks]
  exact tableOf_get _ k

theorem acceptBlocks_markOwed :
    s.acceptBlocks.claims.markOwed[k] = (s.claims.markOwed[k] && s.line.plan.mark[k] == .recessive) := by
  dsimp only [State.acceptBlocks]
  exact tableOf_get _ k

theorem acceptBlocks_serveFlags : s.acceptBlocks.dispatch.serveFlags[k] = (s.dispatch.serveFlags[k] || s.becomesOwned k) := by
  dsimp only [State.acceptBlocks]
  exact tableOf_get _ k

theorem acceptBlocks_edgeFlags : s.acceptBlocks.dispatch.edgeFlags[k] = (s.dispatch.edgeFlags[k] || s.edgeRaised k) := by
  dsimp only [State.acceptBlocks]
  exact tableOf_get _ k

end

theorem acceptBlocks_inService (s : State) : s.acceptBlocks.dispatch.inService = s.dispatch.inService := by
  dsimp only [State.acceptBlocks]

theorem acceptBlocks_config (s : State) : s.acceptBlocks.config = s.config := (acceptBlocks_ranges s).1

/-- R112, R113: an accepted frame with the hold limit judged: every block has acted, the link state has not changed yet. -/
def State.held (s : State) : State := s.acceptBlocks.expiredLines.foldl State.abandonClaim s.acceptBlocks

theorem acceptFrame_eq (s : State) :
    s.acceptFrame = s.held.applyLink s.linkVerdict s.rosterEvents (s.acceptBlocks.expiredLines.map .abandoned) := rfl

section
variable (s : State)

theorem held_config : s.held.config = s.config := by
  unfold State.held
  rw [abandonAll_eq]
  exact acceptBlocks_config s

theorem held_link : s.held.membership.link = s.membership.link := by
  unfold State.held
  rw [abandonAll_eq]
  exact (acceptBlocks_ranges s).2.1

theorem mem_expiredLines (k : LineNo) :
    k ∈ s.acceptBlocks.expiredLines ↔ (s.claimAfter k).holdDue s.holdLimit = true := by
  have hl : s.acceptBlocks.holdLimit = s.holdLimit := by unfold State.holdLimit; rw [acceptBlocks_config]
  simp only [State.expiredLines, List.mem_filter, List.mem_finRange, true_and, acceptBlocks_records, hl]

theorem held_records (k : LineNo) : s.held.claims.records[k] =
    if (s.claimAfter k).holdDue s.holdLimit = true then .idle else s.claimAfter k := by
  unfold State.held
  rw [abandonAll_eq]
  refine (tableOf_get _ k).trans ?_
  rw [acceptBlocks_records]
  exact if_congr (mem_expiredLines s k) rfl rfl

theorem held_markOwed (k : LineNo) :
    s.held.claims.markOwed[k] = (s.claims.markOwed[k] && s.line.plan.mark[k] == .recessive) := by
  unfold State.held
  rw [abandonAll_eq]
  exact acceptBlocks_markOwed s k

theorem held_serveFlags (k : LineNo) : s.held.dispatch.serveFlags[k] =
    if (s.claimAfter k).holdDue s.holdLimit = true then false else s.dispatch.serveFlags[k] || s.becomesOwned k := by
  unfold State.held
  rw [abandonAll_eq]
  refine (tableOf_get _ k).trans ?_
  rw [acceptBlocks_serveFlags]
  exact if_congr (mem_expiredLines s k) rfl rfl

theorem held_edgeFlags (k : LineNo) : s.held.dispatch.edgeFlags[k] = (s.dispatch.edgeFlags[k] || s.edgeRaised k) := by
  unfold State.held
  rw [abandonAll_eq]
  exact acceptBlocks_edgeFlags s k

theorem held_inService : s.held.dispatch.inService = s.dispatch.inService.map fun e =>
    if e.kind = .lineServe ∧ ∃ k ∈ s.acceptBlocks.expiredLines, e.source = lineDelivery k then { e with orphaned := true }
    else e := by
  unfold State.held
  rw [abandonAll_eq]
  dsimp only
  rw [acceptBlocks_inService]

end

/-- R113, R166: an entry in service after the hold limit is judged is one from before, orphaned if its claim was given up. -/
theorem mem_held_inService {s : State} {e : ServiceEntry} (h : e ∈ s.held.dispatch.inService) :
    ∃ f ∈ s.dispatch.inService, e.source = f.source ∧ e.kind = f.kind ∧ (f.orphaned = true → e.orphaned = true) ∧
      (e.orphaned = false → f.kind = .lineServe → ∀ k, f.source = lineDelivery k → k ∉ s.acceptBlocks.expiredLines) := by
  rw [held_inService] at h
  obtain ⟨f, hf, rfl⟩ := List.mem_map.mp h
  refine ⟨f, hf, ?_⟩
  split
  · exact ⟨rfl, rfl, fun _ => rfl, fun h => absurd h (by simp)⟩
  · next hn => exact ⟨rfl, rfl, id, fun _ hk k hs hm => hn ⟨hk, k, hm, hs⟩⟩

/-- R110 to R113: the claims and deliveries after an accepted frame's blocks and hold limit. -/
theorem claimsOk_held {s : State} (hc : s.ConfigOk) (h : s.ClaimsOk) : s.held.ClaimsOk := by
  have hlimit : s.held.holdLimit = s.holdLimit := by unfold State.holdLimit; rw [held_config]
  have hpos : 0 < s.holdLimit := by
    have : s.config.station.holdLimit.toNat ≠ 0 := fun e => hc.holdLimit (BitVec.eq_of_toNat_eq e)
    unfold State.holdLimit
    omega
  have hdue (n : Nat) : (ClaimState.owned n).holdDue s.holdLimit = true ↔ s.holdLimit ≤ n := by simp [ClaimState.holdDue]
  have howned {k : LineNo} {n : Nat} (hk : s.claims.records[k] = .owned n)
      (hn : k ∉ s.acceptBlocks.expiredLines) : s.held.claims.records[k] = .owned (n + 1) := by
    rw [held_records, if_neg (fun hd => hn ((mem_expiredLines s k).mpr hd))]
    exact claimAfter_owned s k hk
  constructor
  case served =>
    intro k hk
    rw [held_config]
    refine h.served k fun hi => hk ?_
    rw [held_records, claimAfter_idle s k hi, ite_self]
  case watched =>
    intro k hk
    rw [held_markOwed, Bool.and_eq_true] at hk
    rw [held_config]
    exact h.watched k hk.1
  case watchEntry =>
    intro e he hkind ho
    obtain ⟨f, hf, hs, hk, horph, -⟩ := mem_held_inService he
    rw [held_config, hs]
    exact h.watchEntry f hf (hk ▸ hkind) (Bool.eq_false_iff.mpr fun hx => Bool.false_ne_true (ho.symm.trans (horph hx)))
  case serveEntry =>
    intro e he hkind ho
    obtain ⟨f, hf, hs, hk, horph, hlive⟩ := mem_held_inService he
    obtain ⟨k, n, hsrc, hn⟩ :=
      h.serveEntry f hf (hk ▸ hkind) (Bool.eq_false_iff.mpr fun hx => Bool.false_ne_true (ho.symm.trans (horph hx)))
    exact ⟨k, n + 1, hs.trans hsrc, howned hn (hlive ho (hk ▸ hkind) k hsrc)⟩
  case serveFlag =>
    intro k hk
    rw [held_serveFlags] at hk
    split at hk
    · cases hk
    · next hd =>
      have hfree : ∀ {p : Prop}, p → (p → ∀ f ∈ s.dispatch.inService, f.source ≠ lineDelivery k) →
          ∀ e ∈ s.held.dispatch.inService, e.source ≠ lineDelivery k := by
        intro p hp hall e he
        obtain ⟨f, hf, hs, -⟩ := mem_held_inService he
        exact hs ▸ hall hp f hf
      obtain hk | hk := (Bool.or_eq_true _ _).mp hk
      · obtain ⟨⟨n, hn⟩, hall⟩ := h.serveFlag k hk
        exact ⟨⟨n + 1, howned hn fun hm => hd ((mem_expiredLines s k).mp hm)⟩, hfree hk fun _ => hall⟩
      · obtain ⟨hwon, hsole⟩ := (becomesOwned_iff s k).mp hk
        refine ⟨⟨0, ?_⟩, hfree hwon fun hw => h.bidding k (.inr hw)⟩
        rw [held_records, if_neg hd, claimAfter_won s k hwon, if_pos hsole]
  case bidding =>
    intro k hk e he
    obtain ⟨f, hf, hs, -⟩ := mem_held_inService he
    rw [held_records] at hk
    split at hk
    · simp at hk
    · exact hs ▸ h.bidding k (.inl (claimAfter_bidding s k hk)) f hf
  case sources =>
    have hsrc : s.held.dispatch.inService.map (·.source) = s.dispatch.inService.map (·.source) := by
      rw [held_inService, List.map_map]
      refine List.map_congr_left fun e _ => ?_
      simp only [Function.comp_apply]
      split <;> rfl
    rw [hsrc]
    exact h.sources
  case offline =>
    intro hi k
    rw [held_link] at hi
    obtain ⟨hidle, hmark, hflag, hedge⟩ := h.offline hi k
    have hraised : s.edgeRaised k = false := by
      have : s.membership.link ≠ .joined := fun e => by rw [e] at hi; exact Bool.false_ne_true hi
      simp [State.edgeRaised, this]
    have hbecomes : s.becomesOwned k = false := by simp [State.becomesOwned, hidle]
    refine ⟨?_, ?_, ?_, ?_⟩
    · rw [held_records, claimAfter_idle s k hidle, ite_self]
    · rw [held_markOwed, hmark, Bool.false_and]
    · rw [held_serveFlags, hflag, hbecomes, Bool.or_false, ite_self]
    · rw [held_edgeFlags, hedge, hraised, Bool.or_false]
  case counter =>
    intro k n hk
    rw [hlimit]
    rw [held_records] at hk
    split at hk
    · cases hk
    · next hd =>
      rw [hk, hdue] at hd
      omega
  case offlineEntries =>
    intro hi e he hkind
    rw [held_link] at hi
    obtain ⟨f, hf, -, hk, horph, -⟩ := mem_held_inService he
    exact horph (h.offlineEntries hi f hf (hk ▸ hkind))

theorem claims_applyLink (s : State) (v : LinkVerdict) (m c : List StationEvent)
    (hv : v = .counts → s.membership.link = .listening) : KeepsClaims s (s.applyLink v m c) := by
  cases v with
  | stays => exact claims_recordGroups s m c
  | joins =>
    rw [applyLink_joins]
    refine .trans ?_ (claims_recordGroups _ _ _)
    exact .of_same rfl rfl rfl fun h => absurd h Bool.false_ne_true
  | refused r =>
    rw [applyLink_refused]
    refine .trans (.trans ?_ (claims_detachBlocks _)) (claims_recordGroups _ _ _)
    exact .of_same rfl rfl rfl id
  | counts =>
    rw [applyLink_counts s m c (hv rfl)]
    split
    · refine .trans ?_ (claims_recordGroups _ _ _)
      exact .of_same rfl rfl rfl fun h => absurd h Bool.false_ne_true
    · refine .trans ?_ (claims_recordGroups _ _ _)
      exact .of_same rfl rfl rfl id

theorem claims_acceptFrame (s : State) : KeepsClaims s s.acceptFrame := by
  rw [acceptFrame_eq]
  refine .trans (t := s.held) ⟨held_config s, claimsOk_held⟩ (claims_applyLink _ _ _ _ ?_)
  rw [held_link]
  exact linkVerdict_counts s

theorem claims_settleVerdict (s : State) (o : FrameOutcome) (d : Bool) : KeepsClaims s (s.settleVerdict o d) := by
  unfold State.settleVerdict
  refine .trans (.ite (fun _ => ?_) (fun _ => .refl s)) (claims_setTally _ _)
  exact .of_same rfl rfl rfl id

theorem claims_frameEndStep (s : State) (l : Level) : KeepsClaims s (s.frameEndStep l) := by
  rw [frameEndStep_eq]
  have htaken : KeepsClaims s (s.verdictTaken l) := .of_same rfl rfl rfl id
  have hsettled := htaken.trans (claims_settleVerdict _ (frameOutcome l s.errors.detected) s.errors.detected)
  refine (hsettled.trans ?_).trans (claims_withdrawIfDue _)
  cases frameOutcome l s.errors.detected with
  | accepted => exact claims_acceptFrame _
  | voided => exact claims_dropFrame _
  | locallyDiscarded => exact claims_dropFrame _

/-! ## Every event -/

theorem Events.claims {s u : State} (h : Events s u) : KeepsClaims s u := by
  cases h with
  | nothing => exact .refl s
  | pin p l =>
    unfold State.pinSettles
    dsimp only
    exact .ite (fun _ => (claims_setSource _ _ _).trans (claims_takeEdge _ _)) (fun _ => claims_setSource _ _ _)
  | quiet => exact claims_becomeQuiet s
  | timers => exact .of_same rfl rfl rfl id
  | starts own => exact claims_startFrame s own
  | enter l => exact claims_enterStep s l
  | frameEnd l => exact claims_frameEndStep s l
  | slot l => exact .of_beat (beat_slotEnd s l) (slotEnd_claims s l ▸ .refl _)
  | word l => exact .of_beat (beat_wordEnd s l) (wordEnd_claims s l ▸ .refl _)
  | body l => exact .of_beat (beat_bodyEnd s l) (bodyEnd_claims s l ▸ .refl _)
  | followOn => exact .of_beat (beat_followOnStep s) (followOnStep_claims s ▸ .refl _)
  | closing => exact .of_same rfl rfl rfl id
  | fall => exact claims_fallSlb s
  | withdraws => exact claims_withdrawIfDue s
  | proving =>
    refine .trans ?_ (claims_record _ _)
    exact .of_same rfl rfl rfl fun h => absurd h Bool.false_ne_true
  | peerLost n =>
    rw [losePeer_eq]
    exact .of_same rfl rfl rfl id
  | pulse i => exact claims_setSource s i _
  | holdLimit k hd =>
    refine ⟨((keeps_abandonClaim s k).trans (keeps_record _ _)).config, fun _ h => ?_⟩
    cases hr : s.claims.records[k] with
    | owned n =>
      rw [hr] at hd
      have := h.counter k n hr
      simp [ClaimState.holdDue] at hd
      omega
    | idle => rw [hr] at hd; cases hd
    | contending => rw [hr] at hd; cases hd
    | won => rw [hr] at hd; cases hd
    | releasing => rw [hr] at hd; cases hd
  | voidedOut => exact .of_same rfl rfl rfl id
  | closed => exact claims_frameClosed s
  | brokenByStart =>
    exact .ite (fun _ => (claims_breakFrame s).trans (claims_startFrame _ _)) (fun _ => claims_breakFrame s)
  | brokenByStop => exact .ite (fun _ => (claims_breakFrame s).trans (claims_unsync _)) (fun _ => claims_breakFrame s)
  | lateLeaving => exact claims_enterDetached s
  | lateStart => exact claims_startFrame s false
  | lateStop => exact claims_unsync s
  | stuck => exact claims_stall s

/-! ## CONFIGURE and FINISH -/

/-- R170: CONFIGURE changes the configuration in DETACHED only, where there is no claim and every line entry is orphaned. -/
theorem claimsOk_configured {s u : State} (hl : s.membership.link.lineIdle = true) (hc : u.claims = s.claims)
    (hd : u.dispatch = s.dispatch) (hm : u.membership = s.membership) (h : s.ClaimsOk) : u.ClaimsOk := by
  have hidle (k : LineNo) : u.claims.records[k] = .idle := hc ▸ (h.offline hl k).1
  have hmark (k : LineNo) : u.claims.markOwed[k] = false := hc ▸ (h.offline hl k).2.1
  have hlive : ∀ e ∈ u.dispatch.inService, e.kind.ofLine = true → e.orphaned = false → False := fun e he hk ho =>
    Bool.false_ne_true (ho.symm.trans (h.offlineEntries hl e (hd ▸ he) hk))
  constructor
  case served => exact fun k hk => absurd (hidle k) hk
  case watched => exact fun k hk => absurd ((hmark k).symm.trans hk) Bool.false_ne_true
  case watchEntry => exact fun e he hk ho => (hlive e he (hk ▸ rfl) ho).elim
  case serveEntry => exact fun e he hk ho => (hlive e he (hk ▸ rfl) ho).elim
  case serveFlag => rw [hd, hc]; exact h.serveFlag
  case bidding => rw [hd, hc]; exact h.bidding
  case sources => rw [hd]; exact h.sources
  case offline => rw [hd, hc, hm]; exact h.offline
  case counter => exact fun k n hk => absurd ((hidle k).symm.trans hk) (by simp)
  case offlineEntries => rw [hd, hm]; exact h.offlineEntries

/-- R164: entries removed. -/
theorem claimsOk_fewer {s u : State} (hconf : u.config = s.config) (hc : u.claims = s.claims)
    (hi : u.dispatch.inService.Sublist s.dispatch.inService) (hf : u.dispatch.serveFlags = s.dispatch.serveFlags)
    (he : u.dispatch.edgeFlags = s.dispatch.edgeFlags) (hm : u.membership = s.membership) (h : s.ClaimsOk) : u.ClaimsOk := by
  constructor
  case served => rw [hconf, hc]; exact h.served
  case watched => rw [hconf, hc]; exact h.watched
  case watchEntry => rw [hconf]; exact fun e he => h.watchEntry e (hi.subset he)
  case serveEntry => rw [hc]; exact fun e he => h.serveEntry e (hi.subset he)
  case serveFlag =>
    rw [hc, hf]
    intro k hk
    obtain ⟨hn, hall⟩ := h.serveFlag k hk
    exact ⟨hn, fun e he => hall e (hi.subset he)⟩
  case bidding => rw [hc]; exact fun k hk e he => h.bidding k hk e (hi.subset he)
  case sources => exact h.sources.sublist (hi.map _)
  case offline => rw [hm, hc, hf, he]; exact h.offline
  case counter =>
    rw [hc, show u.holdLimit = s.holdLimit by unfold State.holdLimit; rw [hconf]]
    exact h.counter
  case offlineEntries => rw [hm]; exact fun hl e he => h.offlineEntries hl e (hi.subset he)

/-- R165: the claim of a finished LINE_SERVE delivery, for which there is no flag and no entry, becomes RELEASING. -/
theorem State.ClaimsOk.released {s u : State} {k : LineNo} (h : s.ClaimsOk) (hrole : s.config.lines[k].role = .serve)
    (hflag : s.dispatch.serveFlags[k] = false) (hfree : ∀ e ∈ s.dispatch.inService, e.source ≠ lineDelivery k)
    (hl : s.membership.link.lineIdle = false) (hconf : u.config = s.config) (hc : u.claims = s.claims.setRecord k .releasing)
    (hd : u.dispatch = s.dispatch) (hm : u.membership = s.membership) : u.ClaimsOk := by
  have hr (j : LineNo) : u.claims.records[j] = if j = k then .releasing else s.claims.records[j] := by rw [hc, setRecord_get]
  have hother {j : LineNo} (hj : j ≠ k) : u.claims.records[j] = s.claims.records[j] := by rw [hr, if_neg hj]
  have honline : ¬ u.membership.link.lineIdle = true := by rw [hm, hl]; decide
  constructor
  case served =>
    intro j hj
    rw [hconf]
    rw [hr] at hj
    split at hj
    · next e => exact e ▸ hrole
    · exact h.served j hj
  case watched => rw [hc, setRecord_markOwed, hconf]; exact h.watched
  case watchEntry => rw [hd, hconf]; exact h.watchEntry
  case serveEntry =>
    rw [hd]
    intro e he hk ho
    obtain ⟨j, n, hsrc, hn⟩ := h.serveEntry e he hk ho
    have hj : j ≠ k := fun e' => hfree e he (e' ▸ hsrc)
    exact ⟨j, n, hsrc, (hother hj).trans hn⟩
  case serveFlag =>
    rw [hd]
    intro j hj
    obtain ⟨⟨n, hn⟩, hall⟩ := h.serveFlag j hj
    have hjk : j ≠ k := fun e => by rw [e, hflag] at hj; exact Bool.false_ne_true hj
    exact ⟨⟨n, (hother hjk).trans hn⟩, hall⟩
  case bidding =>
    rw [hd]
    intro j hj
    rw [hr] at hj
    split at hj
    · simp at hj
    · exact h.bidding j hj
  case sources => rw [hd]; exact h.sources
  case offline => exact fun hi => absurd hi honline
  case counter =>
    intro j n hj
    rw [show u.holdLimit = s.holdLimit by unfold State.holdLimit; rw [hconf]]
    rw [hr] at hj
    split at hj
    · cases hj
    · exact h.counter j n hj
  case offlineEntries => exact fun hi => absurd hi honline

/-- R114: the mark of a WATCH line that is on the line becomes owed. -/
theorem State.ClaimsOk.marked {s u : State} {k : LineNo} (h : s.ClaimsOk) (hrole : s.config.lines[k].role = .watch)
    (hl : s.membership.link.lineIdle = false) (hconf : u.config = s.config)
    (hc : u.claims = { s.claims with markOwed := s.claims.markOwed.put k true }) (hd : u.dispatch = s.dispatch)
    (hm : u.membership = s.membership) : u.ClaimsOk := by
  have hr : u.claims.records = s.claims.records := by rw [hc]
  have honline : ¬ u.membership.link.lineIdle = true := by rw [hm, hl]; decide
  constructor
  case served => rw [hr, hconf]; exact h.served
  case watched =>
    intro j hj
    rw [hconf]
    rw [hc] at hj
    dsimp only at hj
    rw [tablePut_get] at hj
    split at hj
    · next e => exact e ▸ hrole
    · exact h.watched j hj
  case watchEntry => rw [hd, hconf]; exact h.watchEntry
  case serveEntry => rw [hd, hr]; exact h.serveEntry
  case serveFlag => rw [hd, hr]; exact h.serveFlag
  case bidding => rw [hd, hr]; exact h.bidding
  case sources => rw [hd]; exact h.sources
  case offline => exact fun hi => absurd hi honline
  case counter =>
    rw [hr, show u.holdLimit = s.holdLimit by unfold State.holdLimit; rw [hconf]]
    exact h.counter
  case offlineEntries => exact fun hi => absurd hi honline

/-- R164, R165: an entry that is not orphaned removed and handed on. -/
theorem claimsOk_handedOn {s : State} {e : ServiceEntry} {older newer : List ServiceEntry}
    (he : s.dispatch.inService = older ++ e :: newer) (ho : e.orphaned = false) (h : s.ClaimsOk) :
    ({ s with dispatch := { s.dispatch with inService := older ++ newer } }.handOn e).ClaimsOk := by
  have hsub : (older ++ newer).Sublist s.dispatch.inService := by
    rw [he]
    exact List.Sublist.append_left (List.sublist_cons_self _ _) _
  have hmem : e ∈ s.dispatch.inService := by rw [he]; simp
  have hrest : ({ s with dispatch := { s.dispatch with inService := older ++ newer } } : State).ClaimsOk :=
    claimsOk_fewer (s := s) rfl rfl hsub rfl rfl rfl h
  have honline (hk : e.kind.ofLine = true) : s.membership.link.lineIdle = false :=
    Bool.eq_false_iff.mpr fun hl => Bool.false_ne_true (ho.symm.trans (h.offlineEntries hl e hmem hk))
  have hfree : ∀ f ∈ older ++ newer, f.source ≠ e.source := by
    have hn := h.sources
    rw [he, List.map_append, List.map_cons] at hn
    have hnot := (List.nodup_middle.mp hn).notMem
    rw [← List.map_append] at hnot
    exact fun f hf hs => hnot (hs ▸ List.mem_map_of_mem hf)
  unfold State.handOn
  split
  · next k hk hs =>
    have hsrc := deliverySource_eq_line hs
    split
    · next n hn =>
      refine hrest.released (k := k) ?_ ?_ ?_ (honline (hk ▸ rfl)) rfl rfl rfl rfl
      · exact h.served k fun hi => by rw [hi] at hn; cases hn
      · refine Bool.eq_false_iff.mpr fun hf => ?_
        exact (h.serveFlag k hf).2 e hmem hsrc
      · exact fun f hf => hsrc ▸ hfree f hf
    all_goals exact hrest
  · next k hk hs =>
    obtain ⟨j, hj, hrole⟩ := h.watchEntry e hmem hk ho
    obtain rfl := lineDelivery_injective (hj.symm.trans (deliverySource_eq_line hs))
    split
    · exact hrest.marked hrole (honline (hk ▸ rfl)) rfl rfl rfl rfl
    · exact hrest
  · exact hrest

theorem claims_joinTaken (s : State) : KeepsClaims s s.joinTaken := by
  unfold State.joinTaken
  dsimp only
  refine .trans (.trans ?_ (.ite (fun _ => .refl _) (fun _ => claims_record _ _))) (claims_record _ _)
  exact .of_same rfl rfl rfl fun h => absurd h Bool.false_ne_true

theorem Transacts.claimsOk {s v : State} (hv : Transacts s v) (hc : s.ConfigOk) (h : s.ClaimsOk) : v.ClaimsOk := by
  have of {u : State} (hu : KeepsClaims s u) : u.ClaimsOk := hu.claims hc h
  cases hv with
  | nothing => exact h
  | configured c hl => exact claimsOk_configured (s := s) (by rw [hl]; rfl) rfl rfl rfl h
  | joined => exact of (claims_joinTaken s)
  | leaves =>
    refine of (.trans (t := s.setLink .leaving) ?_ (claims_record _ _))
    exact .of_same rfl rfl rfl fun h => absurd h Bool.false_ne_true
  | detached => exact of (claims_enterDetached s)
  | finished e older newer he =>
    refine claimsOk_fewer (s := s) rfl rfl ?_ rfl rfl rfl h
    rw [he]
    exact List.Sublist.append_left (List.sublist_cons_self _ _) _
  | handedOn e older newer he ho => exact claimsOk_handedOn he ho h
  | masked d b => exact claimsOk_congr (s := s) rfl rfl rfl rfl rfl id h
  | asserted i => exact of ((claims_setSource s i { s.sources[i] with softActive := true }).trans (claims_takeEdge _ i))
  | released i => exact of (claims_setSource s i _)
  | countsRead => exact of (.of_same rfl rfl rfl id)
  | posted => exact of (.of_same rfl rfl rfl id)
  | freed => exact of (.of_same rfl rfl rfl id)
  | cancelAsked => exact of (.of_same rfl rfl rfl id)

/-! ## TAKE -/

/-- R150: which sources have a delivery of a line. -/
theorem kindOf_serve {s : State} {d : DeliveryNo} (h : s.kindOf d = .lineServe) :
    ∃ k, d = lineDelivery k ∧ s.config.lines[k].role = .serve := by
  unfold State.kindOf at h
  split at h
  · next k hs =>
    split at h
    · next hr => exact ⟨k, deliverySource_eq_line hs, hr⟩
    · cases h
  all_goals cases h

theorem kindOf_watch {s : State} {d : DeliveryNo} (h : s.kindOf d = .lineWatch) :
    ∃ k, d = lineDelivery k ∧ s.config.lines[k].role ≠ .serve := by
  unfold State.kindOf at h
  split at h
  · next k hs =>
    split at h
    · cases h
    · next hr => exact ⟨k, deliverySource_eq_line hs, hr⟩
  all_goals cases h

theorem linePending_serve {s : State} {k : LineNo} (hr : s.config.lines[k].role = .serve) :
    s.linePending k = s.dispatch.serveFlags[k] := by
  unfold State.linePending
  rw [hr]

theorem linePending_role {s : State} {k : LineNo} (h : s.linePending k = true) : s.config.lines[k].role ≠ .unused := by
  intro hr
  unfold State.linePending at h
  rw [hr] at h
  cases h

/-- R152 to R155: off the line no line is pending where its flags are cleared. -/
theorem linePending_offline {s : State} {k : LineNo} (hl : s.membership.link.lineIdle = true)
    (hf : s.dispatch.serveFlags[k] = false) (he : s.dispatch.edgeFlags[k] = false) : s.linePending k = false := by
  have hj : s.membership.link ≠ .joined := fun e => by rw [e] at hl; exact Bool.false_ne_true hl
  unfold State.linePending
  split
  · rfl
  · exact he
  · simp [hj]
  · exact hf

theorem presentable_pending {s : State} {d : DeliveryNo} (h : s.presentable d = true) : s.sourcePending d = true := by
  simp only [State.presentable, Bool.and_eq_true] at h
  obtain ⟨⟨⟨⟨hp, -⟩, -⟩, -⟩, -⟩ := h
  exact hp

theorem presentable_linePending {s : State} {k : LineNo} (h : s.presentable (lineDelivery k) = true) :
    s.linePending k = true := by
  have hp := presentable_pending h
  unfold State.sourcePending at hp
  rw [deliverySource_lineDelivery] at hp
  exact hp

/-- R162: taking from a source leaves configuration, claims, link state and the entries, sets no flag, and clears the flag of a
SERVE line. -/
structure TakesFrom (s u : State) (d : DeliveryNo) : Prop where
  config : u.config = s.config
  claims : u.claims = s.claims
  link : u.membership.link = s.membership.link
  inService : u.dispatch.inService = s.dispatch.inService
  serveFlag : ∀ k : LineNo, u.dispatch.serveFlags[k] = true →
    s.dispatch.serveFlags[k] = true ∧ ¬ (d = lineDelivery k ∧ s.config.lines[k].role = .serve)
  edgeFlag : ∀ k : LineNo, u.dispatch.edgeFlags[k] = true → s.dispatch.edgeFlags[k] = true

/-- Taking from a source that is not a SERVE line. -/
theorem TakesFrom.of_other {s u : State} {d : DeliveryNo} (hconf : u.config = s.config) (hc : u.claims = s.claims)
    (hl : u.membership.link = s.membership.link) (hd : u.dispatch = s.dispatch)
    (hn : ∀ k, d = lineDelivery k → s.config.lines[k].role ≠ .serve) : TakesFrom s u d :=
  ⟨hconf, hc, hl, by rw [hd], fun k hk => ⟨hd ▸ hk, fun ⟨h, hr⟩ => hn k h hr⟩, fun k hk => hd ▸ hk⟩

theorem takesFrom (s : State) (d : DeliveryNo) : TakesFrom s (s.takeFrom d) d := by
  have hline {k j : LineNo} (hs : deliverySource d = .line k) (hd : d = lineDelivery j) : j = k :=
    lineDelivery_injective (hd.symm.trans (deliverySource_eq_line hs))
  have hother (hs : ∀ k, deliverySource d ≠ .line k) (k : LineNo) (hd : d = lineDelivery k) :
      s.config.lines[k].role ≠ .serve := absurd (hd ▸ deliverySource_lineDelivery k) (hs k)
  unfold State.takeFrom
  split
  · next k hs =>
    have hnot (hr : s.config.lines[k].role ≠ .serve) (j : LineNo) (hd : d = lineDelivery j) :
        s.config.lines[j].role ≠ .serve := hline hs hd ▸ hr
    split
    · refine ⟨rfl, rfl, rfl, rfl, fun j hj => ?_, fun _ => id⟩
      dsimp only at hj
      rw [tablePut_get] at hj
      split at hj
      · cases hj
      · next hne => exact ⟨hj, fun hd => hne (hline hs hd.1)⟩
    · next hr _ =>
      refine ⟨rfl, rfl, rfl, rfl, fun j hj => ⟨hj, fun hd => hnot (by rw [hr]; simp) j hd.1 hd.2⟩, fun j hj => ?_⟩
      dsimp only at hj
      rw [tablePut_get] at hj
      split at hj
      · cases hj
      · exact hj
    · next hr _ => exact .of_other rfl rfl rfl rfl (hnot (by rw [hr]; simp))
    · next hr => exact .of_other rfl rfl rfl rfl (hnot (by rw [hr]; simp))
  · next hs => exact .of_other rfl rfl rfl rfl (hother fun k h => by rw [hs] at h; cases h)
  · next hs => exact .of_other rfl rfl rfl rfl (hother fun k h => by rw [hs] at h; cases h)
  · next hs =>
    split <;> exact .of_other rfl rfl rfl rfl (hother fun k h => by rw [hs] at h; cases h)
  · next hs => exact .of_other rfl rfl rfl rfl (hother fun k h => by rw [hs] at h; cases h)

/-- R162: a presentable source taken: its entry is the newest, and a serve flag that made it pending is cleared. -/
theorem claimsOk_takenFrom {s u : State} {d : DeliveryNo} {e : ServiceEntry} (hd : s.presentable d = true)
    (hsrc : e.source = d) (hkind : e.kind = s.kindOf d)
    (hconf : u.config = s.config) (hc : u.claims = s.claims) (hl : u.membership.link = s.membership.link)
    (hi : u.dispatch.inService = s.dispatch.inService ++ [e])
    (hserve : ∀ k : LineNo, u.dispatch.serveFlags[k] = true →
      s.dispatch.serveFlags[k] = true ∧ ¬ (d = lineDelivery k ∧ s.config.lines[k].role = .serve))
    (hedge : ∀ k : LineNo, u.dispatch.edgeFlags[k] = true → s.dispatch.edgeFlags[k] = true)
    (h : s.ClaimsOk) : u.ClaimsOk := by
  obtain ⟨hfree, -⟩ := presentable_free hd
  have hmem {p : ServiceEntry → Prop} (hold : ∀ f ∈ s.dispatch.inService, p f) (hnew : p e) : ∀ f ∈ u.dispatch.inService, p f := by
    rw [hi]
    intro f hf
    obtain hf | hf := List.mem_append.mp hf
    · exact hold f hf
    · exact List.mem_singleton.mp hf ▸ hnew
  have hpending {k : LineNo} (hk : d = lineDelivery k) : s.linePending k = true := presentable_linePending (hk ▸ hd)
  have howned {k : LineNo} (hk : d = lineDelivery k) (hr : s.config.lines[k].role = .serve) :
      ∃ n : Nat, s.claims.records[k] = .owned n :=
    (h.serveFlag k ((linePending_serve hr).symm.trans (hpending hk))).1
  constructor
  case served => rw [hc, hconf]; exact h.served
  case watched => rw [hc, hconf]; exact h.watched
  case watchEntry =>
    rw [hconf]
    refine hmem h.watchEntry fun hk _ => ?_
    obtain ⟨k, hdk, hr⟩ := kindOf_watch (hkind.symm.trans hk)
    refine ⟨k, hsrc.trans hdk, ?_⟩
    have hu := linePending_role (hpending hdk)
    cases hrole : s.config.lines[k].role with
    | watch => rfl
    | unused => exact absurd hrole hu
    | serve => exact absurd hrole hr
  case serveEntry =>
    rw [hc]
    refine hmem h.serveEntry fun hk _ => ?_
    obtain ⟨k, hdk, hr⟩ := kindOf_serve (hkind.symm.trans hk)
    obtain ⟨n, hn⟩ := howned hdk hr
    exact ⟨k, n, hsrc.trans hdk, hn⟩
  case serveFlag =>
    rw [hc]
    intro k hk
    obtain ⟨hk, hnot⟩ := hserve k hk
    obtain ⟨⟨n, hn⟩, hall⟩ := h.serveFlag k hk
    have hr : s.config.lines[k].role = .serve := h.served k (by rw [hn]; simp)
    exact ⟨⟨n, hn⟩, hmem hall fun hs => hnot ⟨hsrc.symm.trans hs, hr⟩⟩
  case bidding =>
    rw [hc]
    intro k hk
    refine hmem (h.bidding k hk) fun hs => ?_
    have hr : s.config.lines[k].role = .serve := h.served k fun hi => by rw [hi] at hk; simp at hk
    obtain ⟨n, hn⟩ := howned (hsrc.symm.trans hs) hr
    rw [hn] at hk
    simp at hk
  case sources =>
    rw [hi, List.map_append, List.map_singleton, hsrc]
    exact h.sources.append (List.nodup_singleton _) (by simpa using hfree)
  case offline =>
    rw [hl, hc]
    intro hidle k
    obtain ⟨hr, hm, hf, he⟩ := h.offline hidle k
    exact ⟨hr, hm, Bool.eq_false_iff.mpr fun hx => Bool.false_ne_true (hf.symm.trans (hserve k hx).1),
      Bool.eq_false_iff.mpr fun hx => Bool.false_ne_true (he.symm.trans (hedge k hx))⟩
  case counter =>
    rw [hc, show u.holdLimit = s.holdLimit by unfold State.holdLimit; rw [hconf]]
    exact h.counter
  case offlineEntries =>
    rw [hl]
    intro hidle
    refine hmem (h.offlineEntries hidle) fun hk => ?_
    have hno {k : LineNo} (hdk : d = lineDelivery k) : False := by
      obtain ⟨-, -, hf, he⟩ := h.offline hidle k
      exact Bool.false_ne_true ((linePending_offline hidle hf he).symm.trans (hpending hdk))
    rw [hkind] at hk
    cases hkd : s.kindOf d with
    | lineServe => exact (hno (kindOf_serve hkd).choose_spec.1).elim
    | lineWatch => exact (hno (kindOf_watch hkd).choose_spec.1).elim
    | notice => rw [hkd] at hk; cases hk
    | transmit => rw [hkd] at hk; cases hk
    | station => rw [hkd] at hk; cases hk

theorem claimsOk_taken {s : State} (h : s.ClaimsOk) : s.taken.ClaimsOk := by
  unfold State.taken
  split
  · exact claimsOk_congr (s := s) rfl rfl rfl rfl rfl id h
  · next d hd =>
    obtain ⟨hconf, hc, hl, hi, hserve, hedge⟩ := takesFrom (s.openEntry d) d
    exact claimsOk_takenFrom (s := s) (e := s.serviceEntry d) (selected_presentable hd) rfl rfl hconf hc hl hi hserve hedge h

/-! ## Every step -/

theorem resetTo_claimsOk (a : Straps) (k : BitVec 11) (low : Bool) (n : Nat) (q : List Instr) :
    (State.resetTo a k low n q).ClaimsOk := by
  set s := State.resetTo a k low n q
  have hr (k : LineNo) : s.claims.records[k] = .idle := tableOf_get _ k
  have hm (k : LineNo) : s.claims.markOwed[k] = false := tableOf_get _ k
  have hf (k : LineNo) : s.dispatch.serveFlags[k] = false := tableOf_get _ k
  have he (k : LineNo) : s.dispatch.edgeFlags[k] = false := tableOf_get _ k
  have hi : s.dispatch.inService = [] := rfl
  constructor
  case served => exact fun k h => absurd (hr k) h
  case watched => exact fun k h => absurd ((hm k).symm.trans h) Bool.false_ne_true
  case watchEntry => rw [hi]; exact fun e h => absurd h List.not_mem_nil
  case serveEntry => rw [hi]; exact fun e h => absurd h List.not_mem_nil
  case serveFlag => exact fun k h => absurd ((hf k).symm.trans h) Bool.false_ne_true
  case bidding => exact fun k h => by rw [hr k] at h; simp at h
  case sources => rw [hi]; exact List.nodup_nil
  case offline => exact fun _ k => ⟨hr k, hm k, hf k, he k⟩
  case counter => exact fun k n h => absurd ((hr k).symm.trans h) (by simp)
  case offlineEntries => rw [hi]; exact fun _ e h => absurd h List.not_mem_nil

theorem claimsOk_invariant : StepInvariant fun s => s.ConfigOk ∧ s.ClaimsOk where
  queue s _ h := ⟨configOk_congr (s := s) rfl h.1, claimsOk_congr (s := s) rfl rfl rfl rfl rfl id h.2⟩
  settled _ u h := ⟨configOk_congr (s := u) rfl h.1, claimsOk_congr (s := u) rfl rfl rfl rfl rfl id h.2⟩
  reset a k low n q := ⟨resetTo_configOk a k low n q, resetTo_claimsOk a k low n q⟩
  clock s h := ⟨configOk_congr (clockPeriod_config s) h.1,
    claimsOk_congr (clockPeriod_config s) (clockPeriod_claims s) (by rw [clockPeriod_dispatch]) (by rw [clockPeriod_dispatch])
      (by rw [clockPeriod_dispatch]) id h.2⟩
  take s h := ⟨configOk_congr (taken_config s) h.1, claimsOk_taken h.2⟩
  transaction _ v _ h hv _ :=
    ⟨configOk_congr (s := v) rfl (hv.configOk h.1), claimsOk_congr (s := v) rfl rfl rfl rfl rfl id (hv.claimsOk h.1 h.2)⟩
  round s h := ⟨configOk_congr (settleRound_config s) h.1, (claims_settleRound s).claims h.1 h.2⟩
  event _ _ h hu := ⟨configOk_congr hu.claims.config h.1, hu.claims.claims h.1 h.2⟩

end Sys2Proof.Machine

namespace Sys2Proof

open Machine

/-- Settles O59: the consistency of claims and deliveries is an invariant of the step together with the configuration's range. -/
theorem stepKeepsClaimsAndDeliveriesConsistent : Obligations.StepKeepsClaimsAndDeliveriesConsistent :=
  fun _ _ hc hs h => (claimsOk_invariant.step ⟨hc, hs⟩ h).2

end Sys2Proof
end

section
/-! SUPPORT. The local port's reads, failed transactions and resets (chapter 11), the station event queue and the fault level. -/

namespace Sys2Proof.Machine

open Sys2Proof

/-! ## Station event queue (4.6) -/

theorem appendEvent_of_lt {q : List EventRecord} (h : q.length < 8) (r : EventRecord) : appendEvent q r = q ++ [r] := if_pos h

theorem appendEvent_full {q : List EventRecord} (h : q.length = 7) (newest r : EventRecord) :
    appendEvent (q ++ [newest]) r = q ++ [{ newest with laterLost := true }] := by
  unfold appendEvent
  rw [if_neg (by rw [List.length_append, h]; exact Nat.lt_irrefl 8), markNewestLost_append]

/-! ## Records of a read (11.7.9) -/

theorem flagsByte_four (a b c d : Bool) : flagsByte [a, b, c, d] = flagAt 0 a ||| flagAt 1 b ||| flagAt 2 c ||| flagAt 3 d := by
  revert a b c d
  decide

/-- R180: the present flag in bit 0 and the absent count above it. -/
theorem rosterByte_eq (e : RosterEntry) : e.byte = BitVec.ofNat 8 (e.present.toNat + 2 * e.absentCount) := by
  have hflag : flagAt 0 e.present = BitVec.ofNat 8 e.present.toNat := by cases e.present <;> rfl
  have hcount : BitVec.ofNat 8 e.absentCount <<< 1 = BitVec.ofNat 8 (2 * e.absentCount) := by
    refine BitVec.eq_of_toNat_eq ?_
    simp [BitVec.toNat_shiftLeft, Nat.shiftLeft_eq, Nat.mul_comm]
  have hdisjoint : BitVec.ofNat 8 e.present.toNat &&& BitVec.ofNat 8 e.absentCount <<< 1 = 0 := by
    refine BitVec.eq_of_getLsbD_eq fun i _ => ?_
    rw [BitVec.getLsbD_and, BitVec.getLsbD_shiftLeft]
    cases i with
    | zero => simp
    | succ i =>
      have : (BitVec.ofNat 8 e.present.toNat).getLsbD (i + 1) = false :=
        Nat.testBit_lt_two_pow (lt_of_le_of_lt (Nat.mod_le _ _) ((Bool.toNat_lt e.present).trans_le (by
          rw [Nat.pow_succ]; have := Nat.one_le_two_pow (n := i); omega)))
      simp [this]
  rw [RosterEntry.byte, hflag, ← BitVec.add_eq_or_of_and_eq_zero _ _ hdisjoint, hcount, BitVec.ofNat_add]

/-- R91: a source record in the words of the statements. -/
theorem sourceRecord_eq (s : State) (i : SourceNo) : s.sourceBytes i =
    [codeOrNone s.config.sources[i].line, s.config.sources[i].discipline.code,
      flagsByte [s.sources[i].holding, s.sources[i].again, s.sources[i].drove,
        if i.val < 12 then
          match s.sources[i].filtered, s.config.sources[i].polarity with
          | some .high, .high => true
          | some .low, .low => true
          | _, _ => false
        else s.sources[i].softActive],
      BitVec.ofNat 8 s.sources[i].pulseCount] := by
  have hactive : sourceActive i s.config.sources[i] s.sources[i] =
      if i.val < 12 then
        match s.sources[i].filtered, s.config.sources[i].polarity with
        | some .high, .high => true
        | some .low, .low => true
        | _, _ => false
      else s.sources[i].softActive := by
    unfold sourceActive pinActive
    split
    · cases s.sources[i].filtered with
      | none => rfl
      | some l => cases l <;> cases s.config.sources[i].polarity <;> rfl
    · rfl
  rw [State.sourceBytes, ← hactive, flagsByte_four, codeOrNone_eq_optionalCode]

/-- R136: a transmit record in the words of the statements. -/
theorem transmitRecord_eq (s : State) (h : Handle) : s.transmitBytes h =
    match s.sender.entries[h] with
    | none => [0, 0, 0, 0, 0, 0, 0, 0, 0]
    | some e =>
      [entryStateCode (some e)] ++ wordBytes (e.tag.setWidth 16) ++
      [e.urgency.setWidth 8, BitVec.ofNat 8 e.data.length, BitVec.ofNat 8 e.voidCount, flagsByte [e.cancelRequested],
        (match e.state with
          | .done .sent => 0
          | .done .cancelled => 1
          | .done .voidedOut => 2
          | .waiting | .contending | .won => 0),
        if h ∈ s.sender.reports then BitVec.ofNat 8 (s.sender.reports.idxOf h + 1) else 0] := by
  have houtcome (st : EntryState) : st.outcomeCode =
      match st with
      | .done .sent => 0
      | .done .cancelled => 1
      | .done .voidedOut => 2
      | .waiting | .contending | .won => 0 := by
    cases st with
    | done o => cases o <;> rfl
    | waiting => rfl
    | contending => rfl
    | won => rfl
  unfold State.transmitBytes
  cases s.sender.entries[h] with
  | none => rfl
  | some e =>
    dsimp only
    rw [flagsByte_one, wordBytes_eq_twoBytes, houtcome]

theorem exec_readRoster (s : State) : exec .readRoster s = execReadRoster s := rfl

theorem exec_readSources (s : State) : exec .readSources s = execReadSources s := rfl

theorem exec_readTransmitList (s : State) : exec .readTransmitList s = execReadTransmitList s := rfl

theorem exec_readQueues (s : State) : exec .readQueues s = execReadQueues s := rfl

/-! ## Transactions that go wrong (R176) -/

/-- A port closed again changes nothing that is presentable. -/
theorem complete_closed {s : State} (hs : s.AttnOk) : complete s { s with port := .idle } = .next { s with port := .idle } :=
  congrArg Host.Outcome.next (settle_eq_self hs rfl rfl fun _ => rfl)

theorem exec_unknownCommand (s : State) : exec .unknownCommand s = execUnknownCommand s := rfl

theorem exec_transactionCutShort (cut : CutPoint) (s : State) :
    exec (.transactionCutShort cut) s = execTransactionCutShort cut s := rfl

theorem lpsRise_eq {s : State} (hr : s.port.resetTaken = false) : s.lpsRise = complete s { s with port := .idle } := by
  rw [State.lpsRise, hr]
  rfl

/-- R176: a transaction cut short anywhere leaves the port closed and all else as it is. -/
theorem exec_transactionCutShort_closed (cut : CutPoint) {s : State} (hr : s.port.resetTaken = false) (hs : s.AttnOk) :
    exec (.transactionCutShort cut) s = .next { s with port := .idle } := by
  rw [exec_transactionCutShort]
  cases cut with
  | inCommandByte => rw [execTransactionCutShort, openTransaction_eq s hr, complete_closed hs]
  | inArguments => rw [execTransactionCutShort, openTransaction_eq s hr, complete_closed hs]
  | inResponse => rw [execTransactionCutShort, lpsRise_eq hr, complete_closed hs]
  | afterResponse => rw [execTransactionCutShort, lpsRise_eq hr, complete_closed hs]

/-! ## LPO (R174) -/

section
variable {p : LocalPort}

theorem answerBit_at {before after : List Byte} {b : Byte} {i : Nat} (h : p.response = before ++ b :: after) (hi : i < 8) :
    p.answerBit (8 * before.length + i) = b.getMsbD i := by
  have hdiv : (8 * before.length + i) / 8 = before.length := by omega
  have hmod : (8 * before.length + i) % 8 = i := by omega
  rw [LocalPort.answerBit, hdiv, hmod, h, List.getD_eq_getElem?_getD, List.getElem?_append_right (Nat.le_refl _)]
  simp

end

/-! ## A transaction begins on the reset station (R174, R181) -/

theorem openTransaction_idempotent (s : State) : s.openTransaction.openTransaction = s.openTransaction := by
  by_cases h : s.port.resetTaken = true
  · rw [State.openTransaction.eq_def s, if_pos h]
    exact openTransaction_eq _ rfl
  · rw [openTransaction_eq s (Bool.eq_false_iff.mpr h), openTransaction_eq s (Bool.eq_false_iff.mpr h)]

theorem takeCommand_openTransaction (effect : State → State) (s : State) :
    takeCommand effect s = takeCommand effect s.openTransaction := by
  rw [takeCommand, takeCommand, openTransaction_idempotent]

/-- A command that opens a transaction acts on the station with a RESET taken before already carried out. -/
theorem exec_openTransaction {c : Instr} (h : c.opensTransaction = true) (s : State) :
    exec c s = exec c s.openTransaction := by
  have hcut : execTransactionCutShort .inCommandByte s = execTransactionCutShort .inCommandByte s.openTransaction := by
    rw [execTransactionCutShort, execTransactionCutShort, openTransaction_idempotent]
  cases c with
  | transactionCutShort cut =>
    cases cut with
    | inCommandByte => exact hcut
    | inArguments => exact hcut
    | inResponse => cases h
    | afterResponse => cases h
  | take =>
    have htake (u : State) : exec .take u = .next u.openTransaction.taken := rfl
    rw [htake, htake, openTransaction_idempotent]
  | ident | status | configureStation | configureLine | configureSource | configureFilter | readConfiguration | join | leave
  | reset | finishNewest | finish | mask | unmask | assertSource | releaseSource | postNotice | cancelNotice
  | readTransmitList | readImage | readRoster | readSources | readQueues | unknownCommand =>
    unfold exec
    exact takeCommand_openTransaction _ s
  | _ => cases h

theorem openTransaction_of_taken {s : State} (h : s.port.resetTaken = true) : s.openTransaction = s.resetBlocks := by
  rw [State.openTransaction, if_pos h]


/-! ## Resets (R181, R182) -/

theorem exec_reset (s : State) : exec .reset s = execReset s := rfl

theorem exec_resetAtLpsRise (s : State) : exec .resetAtLpsRise s = execResetAtLpsRise s := rfl

theorem exec_pinReset (n : StationNo) (r : BitVec 2) (s : State) : exec (.pinReset n r) s = execPinReset n r s := rfl

theorem exec_reset_taken {s : State} (hr : s.port.resetTaken = false) (hs : s.AttnOk) :
    exec .reset s = .next { s with port := ⟨.answering, [0x00], 0, true⟩ } := by
  rw [exec_reset, execReset, takeCommand_eq _ s hr]
  exact congrArg Host.Outcome.next (settle_eq_self hs rfl rfl fun _ => rfl)

theorem exec_resetAtLpsRise_untaken {s : State} (hr : s.port.resetTaken = false) (hs : s.AttnOk) :
    exec .resetAtLpsRise s = .next (if s.port.phase = .waiting then { s with port := .idle } else s) := by
  rw [exec_resetAtLpsRise, execResetAtLpsRise, if_neg (by rw [hr]; decide)]
  split
  · exact complete_closed hs
  · exact congrArg Host.Outcome.next (settle_eq_self hs rfl rfl fun _ => rfl)

theorem exec_resetAtLpsRise_taken {s : State} (hr : s.port.resetTaken = true) :
    exec .resetAtLpsRise s = .next s.resetBlocks := by
  rw [exec_resetAtLpsRise, execResetAtLpsRise, if_pos hr]

theorem lpsRise_taken {s : State} (hr : s.port.resetTaken = true) : s.lpsRise = .next s.resetBlocks := by
  rw [State.lpsRise, if_pos hr]

theorem afterPinReset_eq (low : Bool) :
    LocalPort.afterPinReset low = if low = true then ⟨.waiting, [], 0, false⟩ else ⟨.closed, [], 0, false⟩ := rfl

/-! ## The reset state (R182) -/

theorem reset_eq_resetTo : State.reset = .resetTo ⟨0, 0⟩ 0 false 0 [] := rfl

theorem reset_safe : State.reset.Safe := by
  rw [reset_eq_resetTo]
  exact {
    config := resetTo_configOk _ _ _ _ _
    tally := rfl
    line := lineOk_quiet ⟨rfl, rfl, rfl⟩ (.inl rfl) LinkState.noConfusion LinkState.noConfusion
    service := resetTo_serviceOk _ _ _ _ _
    queues := resetTo_queuesOk _ _ _ _ _
    transmit := resetTo_transmitOk _ _ _ _ _
    image := resetTo_imageOk _ _ _ _ _
    roster := resetTo_rosterOk _ _ _ _ _
    listening := ⟨Nat.zero_le _, fun _ => Nat.zero_le _⟩
    sources := resetTo_sourcesOk _ _ _ _ _
    contention := resetTo_contentionOk _ _ _ _ _
    port := afterPinReset_portOk false rfl
    claims := resetTo_claimsOk _ _ _ _ _
    attn := resetTo_attnOk _ _ _ _ _ }

end Sys2Proof.Machine

namespace Sys2Proof

open Machine

/-- Settles O39, row by row of the level table. -/
theorem faultLevelFollowsTallyWithHysteresis : Obligations.FaultLevelFollowsTallyWithHysteresis := by
  intro tally
  refine ⟨fun h l => ?_, fun h _ => ?_, fun h h' => ?_, fun h h' => ?_, fun h h' => ?_, fun h => ?_, fun h => ⟨?_, ?_⟩⟩
  · cases l with
    | clean => exact if_pos h
    | warned => exact if_pos h
    | muted => exact if_pos (by omega)
  · exact if_pos h
  · rw [levelAfter, if_neg (by omega), if_pos h]
  · rw [levelAfter, if_neg (by omega), if_pos h]
  · rw [levelAfter, if_neg (by omega), if_pos h]
  · rw [levelAfter, if_neg (by omega), if_neg (by omega)]
  · rw [levelAfter, if_neg (by omega), if_neg (by omega)]
  · rw [levelAfter, if_neg (by omega), if_neg (by omega)]

/-- Settles O23: recording is the queue's append. -/
theorem eventQueueDropsWhenFullAndMarksNewest : Obligations.EventQueueDropsWhenFullAndMarksNewest := by
  refine ⟨fun s e => ⟨fun h => ?_, fun q newest hq h => ?_⟩, fun q r => ⟨fun h => appendEvent_of_lt h r,
    fun newest h => appendEvent_full h newest r⟩⟩
  · rw [State.record, appendEvent_of_lt h]
  · rw [State.record, h, appendEvent_full hq]

/-- Settles O7: each read answers its records; READ QUEUES then clears counts that nothing presentable depends on. -/
theorem readListsReturnTheirRecords : Obligations.ReadListsReturnTheirRecords := by
  refine ⟨configurationCodes, entryCodes, fun s hr hs => ⟨?roster, ?sources, ?transmit, ?queues⟩⟩
  case roster =>
    rw [exec_readRoster, execReadRoster, takeCommand_answer hr hs rfl, Status.code]
    simp only [rosterByte_eq]
  case sources =>
    rw [exec_readSources, execReadSources, takeCommand_answer hr hs rfl, Status.code]
    exact congrArg (fun bytes => Host.Outcome.next (s.responding (0x00 :: bytes)))
      (List.flatMap_congr fun i _ => sourceRecord_eq s i)
  case transmit =>
    rw [exec_readTransmitList, execReadTransmitList, takeCommand_answer hr hs rfl, Status.code]
    exact congrArg (fun bytes => Host.Outcome.next (s.responding (0x00 :: bytes)))
      (List.flatMap_congr fun h _ => transmitRecord_eq s h)
  case queues =>
    rw [exec_readQueues, execReadQueues, takeCommand_eq _ s hr]
    exact congrArg Host.Outcome.next (settle_eq_self hs rfl rfl (presentable_congr rfl rfl rfl rfl rfl rfl (fun _ => rfl) rfl rfl rfl rfl))

/-- Settles O9: the rises of LPS close the port, LPO follows the phase and the bit that is due, and a transaction opened on a RESET
not yet carried out runs on the reset station. -/
theorem failedTransactionsAndTakenReset : Obligations.FailedTransactionsAndTakenReset := by
  refine ⟨fun s hr hs => ⟨?_, fun cut => exec_transactionCutShort_closed cut hr hs⟩, fun p => ⟨lpo_released p, lpo_waiting p,
    lpo_reading p, fun h he => ?_, fun before after b i h hres hi he => ?_⟩, fun c s hc hs => ?_⟩
  · rw [exec_unknownCommand, execUnknownCommand, takeCommand_answer hr hs rfl, Status.code]
  · obtain he | he := he
    · exact lpo_taken p h he
    · obtain ⟨i, hi⟩ : ∃ i, p.edges = i + 1 := ⟨p.edges - 1, by omega⟩
      rw [lpo_bit p i h hi, answerBit_past p i (by omega)]
      rfl
  · rw [lpo_bit p _ h he, answerBit_at hres hi]
  · rw [exec_openTransaction hc, openTransaction_of_taken hs]

/-- Settles O10: RESET waits for the rise of LPS; a pin reset does not. -/
theorem resetsReturnBlocksToResetValues : Obligations.ResetsReturnBlocksToResetValues := by
  refine ⟨fun s hr hs => ⟨exec_reset_taken hr hs, exec_resetAtLpsRise_untaken hr hs⟩, fun s hr => ⟨?_, ?_, ?_⟩,
    fun n r s => ⟨?_, rfl⟩⟩
  · exact exec_resetAtLpsRise_taken hr
  · rw [exec_transactionCutShort, execTransactionCutShort, lpsRise_taken hr, exec_resetAtLpsRise_taken hr]
  · rw [exec_transactionCutShort, execTransactionCutShort, lpsRise_taken hr, exec_resetAtLpsRise_taken hr]
  · rw [exec_pinReset, execPinReset, afterPinReset_eq]

/-- Settles O11: the values block by block, each table by its one entry, and the ranges of the station after a reset. -/
theorem resetStateHoldsResetValues : Obligations.ResetStateHoldsResetValues := by
  refine ⟨⟨rfl, rfl, rfl, rfl, fun k => ⟨tableOf_get _ k, tableOf_get _ k, tableOf_get _ k⟩⟩,
    ⟨rfl, rfl, rfl, rfl, rfl, rfl⟩,
    ⟨rfl, rfl, rfl, rfl, rfl, rfl, rfl, rfl, rfl, fun n => tableOf_get _ n⟩,
    fun i => ⟨tableOf_get _ i, tableOf_get _ i⟩,
    ⟨rfl, rfl, fun k => ⟨tableOf_get _ k, tableOf_get _ k, tableOf_get _ k, tableOf_get _ k, tableOf_get _ k, tableOf_get _ k⟩⟩,
    ⟨fun h => tableOf_get _ h, rfl, rfl, rfl, rfl, fun i => tableOf_get _ i⟩,
    ⟨rfl, rfl, rfl, rfl, fun d => tableOf_get _ d, fun r => tableOf_get _ r⟩, rfl, ⟨rfl, rfl⟩, reset_safe⟩

end Sys2Proof
end

section
/-! SUPPORT. The CONFIGURE commands (R169 to R173): a field is read back as it is written, and a section is read exactly where
its bytes are the layout of the entry read. -/

namespace Sys2Proof.Machine

open Sys2Proof

/-! ## Fields -/

section
variable {b : Byte}

theorem readPositive_iff {v : Byte} : readPositive b = some v ↔ b = v ∧ v ≠ 0 := by
  unfold readPositive
  split
  · next h => exact ⟨fun e => (by cases e), fun ⟨e, hv⟩ => absurd (e ▸ h) hv⟩
  · next h => exact ⟨fun e => ⟨Option.some.inj e, Option.some.inj e ▸ h⟩, fun ⟨e, _⟩ => congrArg some e⟩

theorem readNibble_iff {v : BitVec 4} : readNibble b = some v ↔ b = v.setWidth 8 := by
  have hv : (v.setWidth 8).toNat = v.toNat := by
    rw [BitVec.toNat_setWidth, Nat.mod_eq_of_lt (by omega)]
  unfold readNibble
  split
  · next h =>
    rw [Option.some_inj]
    refine ⟨fun e => ?_, fun e => ?_⟩
    · rw [← e]
      refine BitVec.eq_of_toNat_eq ?_
      simp only [BitVec.toNat_setWidth]
      omega
    · rw [e]
      refine BitVec.eq_of_toNat_eq ?_
      simp only [BitVec.toNat_setWidth]
      omega
  · next h =>
    refine ⟨fun e => (by cases e), fun e => absurd ?_ h⟩
    rw [e, hv]
    omega

theorem readOptions_iff {n : Nat} {v : Byte} : readOptions n b = some v ↔ b = v ∧ b.toNat < 2 ^ n := by
  unfold readOptions
  split
  · next h => exact ⟨fun e => ⟨Option.some.inj e, h⟩, fun ⟨e, _⟩ => congrArg some e⟩
  · next h => exact ⟨fun e => (by cases e), fun ⟨_, hl⟩ => absurd hl h⟩

theorem readAction_iff {a : FilterAction} : readAction b = some a ↔ b = a.code := by
  revert b
  cases a <;> decide

theorem readRole_iff {r : LineRole} : readRole b = some r ↔ b = r.code := by
  revert b
  cases r <;> decide

theorem readDiscipline_iff {d : SourceDiscipline} : readDiscipline b = some d ↔ b = d.code := by
  revert b
  cases d <;> decide

theorem readPolarity_iff {p : Polarity} : readPolarity b = some p ↔ b = p.code := by
  revert b
  cases p <;> decide

theorem readIndex_iff {n : Nat} (hn : n ≤ 256) {k : Fin n} : readIndex n b = some k ↔ b = BitVec.ofNat 8 k.val := by
  refine ⟨fun h => ?_, fun h => h ▸ readIndex_ofNat hn k⟩
  unfold readIndex at h
  split at h
  · obtain rfl := Option.some.inj h
    exact (BitVec.ofNat_toNat 8 b).trans (BitVec.setWidth_eq b) |>.symm
  · cases h

theorem readOptionalIndex_iff {n : Nat} (hn : n ≤ 63) {k : Option (Fin n)} :
    readOptionalIndex n b = some k ↔ b = codeOrNone k := by
  unfold readOptionalIndex
  cases k with
  | none =>
    split
    · next h => exact ⟨fun _ => h, fun _ => rfl⟩
    · next h => exact ⟨fun e => by simp at e, fun e => absurd e h⟩
  | some k =>
    have hcode : codeOrNone (some k) = BitVec.ofNat 8 k.val := rfl
    split
    · next h =>
      refine ⟨fun e => (by cases e), fun e => ?_⟩
      have := congrArg BitVec.toNat (h.symm.trans e)
      rw [hcode, BitVec.toNat_ofNat] at this
      have h63 : (0x3F : Byte).toNat = 63 := rfl
      omega
    · rw [hcode, ← readIndex_iff (by omega : n ≤ 256)]
      simp

end

theorem readTag_iff {w : Word16} {t : Tag} : readTag w = some t ↔ w = t.setWidth 16 := by
  unfold readTag
  split
  · next h =>
    rw [Option.some_inj]
    refine ⟨fun e => ?_, fun e => ?_⟩
    · rw [← e]
      refine BitVec.eq_of_toNat_eq ?_
      simp only [BitVec.toNat_setWidth]
      omega
    · rw [e]
      refine BitVec.eq_of_toNat_eq ?_
      simp only [BitVec.toNat_setWidth]
      omega
  · next h =>
    refine ⟨fun e => (by cases e), fun e => absurd ?_ h⟩
    rw [e, BitVec.toNat_setWidth]
    omega

/-! ## Flag bytes -/

theorem flagsByte_of_five : ∀ o : Byte, o.toNat < 2 ^ 5 → o = flagsByte [o[0], o[1], o[2], o[3], o[4]] := by decide

theorem flagsByte_of_two : ∀ o : Byte, o.toNat < 2 ^ 2 → o = flagsByte [o[0], o[1]] := by decide

theorem flagsByte_five_bits (a b c d e : Bool) : (flagsByte [a, b, c, d, e]).toNat < 2 ^ 5 ∧
    (flagsByte [a, b, c, d, e])[0] = a ∧ (flagsByte [a, b, c, d, e])[1] = b ∧ (flagsByte [a, b, c, d, e])[2] = c ∧
    (flagsByte [a, b, c, d, e])[3] = d ∧ (flagsByte [a, b, c, d, e])[4] = e := by
  revert a b c d e
  decide

theorem flagsByte_two_bits (a b : Bool) :
    (flagsByte [a, b]).toNat < 2 ^ 2 ∧ (flagsByte [a, b])[0] = a ∧ (flagsByte [a, b])[1] = b := by
  revert a b
  decide

/-! ## Sections -/

theorem readStation_iff {k h o ra rb rt rs p d : Byte} {c : StationSection} :
    readStation k h o ra rb rt rs p d = some c ↔
      (k = c.keepalive ∧ c.keepalive ≠ 0) ∧ (h = c.holdLimit ∧ c.holdLimit ≠ 0) ∧
      o = flagsByte [c.discipline == .flat, c.rotate, c.hearOwn, c.reportPeers, c.attention] ∧
      ra = c.rankA.setWidth 8 ∧ rb = c.rankB.setWidth 8 ∧ rt = c.rankTransmit.setWidth 8 ∧ rs = c.rankStation.setWidth 8 ∧
      p = flagsByte [c.policyA == .keepNew, c.policyB == .keepNew] ∧ d = c.defaultAction.code := by
  simp only [readStation, Option.bind_eq_bind, Option.bind_eq_some_iff, Option.pure_def]
  constructor
  · rintro ⟨k', hk, h', hh, o', ho, ra', hra, rb', hrb, rt', hrt, rs', hrs, p', hp, d', hd, hc⟩
    obtain rfl := Option.some.inj hc
    obtain ⟨rfl, hobits⟩ := readOptions_iff.mp ho
    obtain ⟨rfl, hpbits⟩ := readOptions_iff.mp hp
    refine ⟨readPositive_iff.mp hk, readPositive_iff.mp hh, ?_, readNibble_iff.mp hra, readNibble_iff.mp hrb,
      readNibble_iff.mp hrt, readNibble_iff.mp hrs, ?_, readAction_iff.mp hd⟩
    · have hflat : ((if o[0] then Discipline.flat else .nested) == .flat) = o[0] := by cases o[0] <;> rfl
      rw [hflat]
      exact flagsByte_of_five o hobits
    · have hnew (x : Bool) : ((if x then OverflowPolicy.keepNew else .keepOld) == .keepNew) = x := by cases x <;> rfl
      rw [hnew, hnew]
      exact flagsByte_of_two p hpbits
  · rintro ⟨hk, hh, ho, hra, hrb, hrt, hrs, hp, hd⟩
    obtain ⟨hlt, h0, h1, h2, h3, h4⟩ := flagsByte_five_bits (c.discipline == .flat) c.rotate c.hearOwn c.reportPeers c.attention
    obtain ⟨hlt', h0', h1'⟩ := flagsByte_two_bits (c.policyA == .keepNew) (c.policyB == .keepNew)
    refine ⟨_, readPositive_iff.mpr hk, _, readPositive_iff.mpr hh, _, readOptions_iff.mpr ⟨rfl, ho ▸ hlt⟩,
      _, readNibble_iff.mpr hra, _, readNibble_iff.mpr hrb, _, readNibble_iff.mpr hrt, _, readNibble_iff.mpr hrs,
      _, readOptions_iff.mpr ⟨rfl, hp ▸ hlt'⟩, _, readAction_iff.mpr hd, ?_⟩
    have hdisc : (if (c.discipline == .flat) = true then Discipline.flat else .nested) = c.discipline := by
      cases c.discipline <;> rfl
    have hpolicy (q : OverflowPolicy) : (if (q == .keepNew) = true then OverflowPolicy.keepNew else .keepOld) = q := by
      cases q <;> rfl
    rw [ho, hp]
    simp only [h0, h1, h2, h3, h4, h0', h1', hdisc, hpolicy]

theorem readLine_iff {l r o k u : Byte} {j : LineNo} {c : Subscription} : readLine l r o k u = some (j, c) ↔
    l = BitVec.ofNat 8 j.val ∧ r = c.role.code ∧ o = flagsByte [c.trigger == .level, c.acknowledge] ∧
      k = c.rank.setWidth 8 ∧ u = c.urgency.setWidth 8 := by
  simp only [readLine, Option.bind_eq_bind, Option.bind_eq_some_iff, Option.pure_def]
  constructor
  · rintro ⟨l', hl, r', hr, o', ho, k', hk, u', hu, hc⟩
    obtain ⟨rfl, rfl⟩ := Prod.mk.inj (Option.some.inj hc)
    obtain ⟨rfl, hobits⟩ := readOptions_iff.mp ho
    refine ⟨(readIndex_iff (by decide)).mp hl, readRole_iff.mp hr, ?_, readNibble_iff.mp hk, readNibble_iff.mp hu⟩
    have hlevel : ((if o[0] then Trigger.level else .edge) == .level) = o[0] := by cases o[0] <;> rfl
    rw [hlevel]
    exact flagsByte_of_two o hobits
  · rintro ⟨hl, hr, ho, hk, hu⟩
    obtain ⟨hlt, h0, h1⟩ := flagsByte_two_bits (c.trigger == .level) c.acknowledge
    refine ⟨_, (readIndex_iff (by decide)).mpr hl, _, readRole_iff.mpr hr, _, readOptions_iff.mpr ⟨rfl, ho ▸ hlt⟩,
      _, readNibble_iff.mpr hk, _, readNibble_iff.mpr hu, ?_⟩
    have htrigger : (if (c.trigger == .level) = true then Trigger.level else .edge) = c.trigger := by
      cases c.trigger <;> rfl
    rw [ho]
    simp only [h0, h1, htrigger]

theorem readSource_iff {i l d p q : Byte} {j : SourceNo} {c : SourceConfig} : readSource i l d p q = some (j, c) ↔
    i = BitVec.ofNat 8 j.val ∧ l = codeOrNone c.line ∧ d = c.discipline.code ∧
      (p = c.pulseFrames.setWidth 8 ∧ p ≠ 0) ∧ q = c.polarity.code := by
  simp only [readSource, Option.bind_eq_bind, Option.bind_eq_some_iff, Option.pure_def]
  constructor
  · rintro ⟨i', hi, l', hl, d', hd, p', hp, n, hn, q', hq, hc⟩
    obtain ⟨rfl, rfl⟩ := Prod.mk.inj (Option.some.inj hc)
    obtain ⟨rfl, hp⟩ := readPositive_iff.mp hp
    exact ⟨(readIndex_iff (by decide)).mp hi, (readOptionalIndex_iff (by decide)).mp hl, readDiscipline_iff.mp hd,
      ⟨readNibble_iff.mp hn, hp⟩, readPolarity_iff.mp hq⟩
  · rintro ⟨hi, hl, hd, ⟨hp, hp0⟩, hq⟩
    exact ⟨_, (readIndex_iff (by decide)).mpr hi, _, (readOptionalIndex_iff (by decide)).mpr hl, _, readDiscipline_iff.mpr hd,
      _, readPositive_iff.mpr ⟨rfl, hp0⟩, _, readNibble_iff.mpr hp, _, readPolarity_iff.mpr hq, rfl⟩

theorem readFilter_iff {i o : Byte} {x y : Word16} {n a : Byte} {j : FilterNo} {c : FilterEntry} :
    readFilter i o x y n a = some (j, c) ↔
      i = BitVec.ofNat 8 j.val ∧ o = flagsByte [c.enabled, c.form == .pattern] ∧ x = c.first.setWidth 16 ∧
      y = c.second.setWidth 16 ∧ n = codeOrNone c.sender ∧ a = c.action.code ∧ (c.form = .range → c.first ≤ c.second) := by
  simp only [readFilter, Option.bind_eq_bind, Option.bind_eq_some_iff, Option.pure_def]
  constructor
  · rintro ⟨i', hi, o', ho, x', hx, y', hy, n', hn, a', ha, hc⟩
    obtain ⟨rfl, hobits⟩ := readOptions_iff.mp ho
    obtain ⟨hr, hc⟩ := Option.ite_none_left_eq_some.mp hc
    obtain ⟨rfl, rfl⟩ := Prod.mk.inj (Option.some.inj hc)
    refine ⟨(readIndex_iff (by decide)).mp hi, ?_, readTag_iff.mp hx, readTag_iff.mp hy,
      (readOptionalIndex_iff (by decide)).mp hn, readAction_iff.mp ha, fun hf => ?_⟩
    · have hpattern : ((if o[1] then FilterForm.pattern else .range) == .pattern) = o[1] := by cases o[1] <;> rfl
      rw [hpattern]
      exact flagsByte_of_two o hobits
    · exact BitVec.not_lt.mp fun hlt => hr ⟨hf, hlt⟩
  · rintro ⟨hi, ho, hx, hy, hn, ha, hr⟩
    obtain ⟨hlt, h0, h1⟩ := flagsByte_two_bits c.enabled (c.form == .pattern)
    refine ⟨_, (readIndex_iff (by decide)).mpr hi, _, readOptions_iff.mpr ⟨rfl, ho ▸ hlt⟩, _, readTag_iff.mpr hx,
      _, readTag_iff.mpr hy, _, (readOptionalIndex_iff (by decide)).mpr hn, _, readAction_iff.mpr ha, ?_⟩
    have hform : (if (c.form == .pattern) = true then FilterForm.pattern else .range) = c.form := by
      cases c.form <;> rfl
    rw [ho]
    simp only [h0, h1, hform]
    exact if_neg fun ⟨hf, hlt⟩ => BitVec.not_lt.mpr (hr hf) hlt

/-! ## The commands -/

section
variable {α : Type} {read : Option α} {write : Configuration → α → Configuration} {s : State}

theorem takeCommand_configure_refused (hr : s.port.resetTaken = false) (hl : s.membership.link ≠ .detached) :
    takeCommand (configure read write) s = .next (settle s (s.responding [0x03])) := by
  rw [takeCommand_eq _ s hr, configure.eq_def, if_pos hl]
  rfl

theorem takeCommand_configure_none (hr : s.port.resetTaken = false) (hl : s.membership.link = .detached)
    (h : read = none) : takeCommand (configure read write) s = .next (settle s (s.responding [0x04])) := by
  rw [takeCommand_eq _ s hr, configure.eq_def, if_neg (not_not.mpr hl), h]
  rfl

theorem takeCommand_configure_some {a : α} (hr : s.port.resetTaken = false) (hl : s.membership.link = .detached)
    (h : read = some a) : takeCommand (configure read write) s =
      .next (settle s ({ s with config := write s.config a }.responding [0x00])) := by
  rw [takeCommand_eq _ s hr, configure.eq_def, if_neg (not_not.mpr hl), h]
  rfl

/-- R169: a CONFIGURE command answered OK has read an entry and written it. -/
theorem takeCommand_configure_ok {t : State} (hr : s.port.resetTaken = false) (hl : s.membership.link = .detached)
    (h : takeCommand (configure read write) s = .next t) (ht : t.port.response = [0x00]) :
    ∃ a, read = some a ∧ t.config = write s.config a ∧ t.port.resetTaken = false := by
  cases hread : read with
  | none =>
    rw [takeCommand_configure_none hr hl hread] at h
    obtain rfl := Host.Outcome.next.inj h
    cases ht
  | some a =>
    rw [takeCommand_configure_some hr hl hread] at h
    obtain rfl := Host.Outcome.next.inj h
    exact ⟨a, rfl, rfl, rfl⟩

end

section
variable (s : State)

theorem exec_configureStation (k h o ra rb rt rs p d : Byte) : exec (.configureStation k h o ra rb rt rs p d) s =
    takeCommand (configure (readStation k h o ra rb rt rs p d)
      fun c entry => { c with station := entry, complete := true }) s := rfl

theorem exec_configureLine (l r o k u : Byte) : exec (.configureLine l r o k u) s =
    takeCommand (configure (readLine l r o k u) fun c entry => { c with lines := c.lines.put entry.1 entry.2 }) s := rfl

theorem exec_configureSource (i l d p q : Byte) : exec (.configureSource i l d p q) s =
    takeCommand (configure (readSource i l d p q) fun c entry => { c with sources := c.sources.put entry.1 entry.2 }) s := rfl

theorem exec_configureFilter (i o : Byte) (x y : Word16) (n a : Byte) : exec (.configureFilter i o x y n a) s =
    takeCommand (configure (readFilter i o x y n a) fun c entry => { c with filters := c.filters.put entry.1 entry.2 }) s := rfl

end

/-- R173: READ CONFIGURATION gives the entry's bytes, whatever else its step settles. -/
theorem exec_readConfiguration_response {t : State} (hr : t.port.resetTaken = false) {sect index : Byte} {bytes : List Byte}
    (h : t.config.entryBytes sect index = some bytes) : ∃ u, exec (.readConfiguration sect index) t = .next u ∧
      u.port.response = 0x00 :: flagsByte [t.config.complete] :: bytes := by
  refine ⟨settle t (t.answer .ok (flagByte t.config.complete :: bytes)), ?_, ?_⟩
  · rw [exec_readConfiguration, execReadConfiguration, takeCommand_eq _ t hr, h]
  · rw [settle_port, flagsByte_one]
    rfl

/-! ## Bytes out of range -/

theorem nibbleByte_le (v : BitVec 4) : (v.setWidth 8).toNat ≤ 15 := by
  rw [BitVec.toNat_setWidth]
  omega

theorem tagWord_le (v : Tag) : (v.setWidth 16).toNat ≤ 2047 := by
  rw [BitVec.toNat_setWidth]
  omega

theorem indexByte_lt {n : Nat} (hn : n ≤ 256) (k : Fin n) : (BitVec.ofNat 8 k.val).toNat < n := by
  rw [BitVec.toNat_ofNat, Nat.mod_eq_of_lt (by omega)]
  exact k.isLt

theorem codeOrNone_lt {n : Nat} (hn : n ≤ 256) (k : Option (Fin n)) : (codeOrNone k).toNat < n ∨ codeOrNone k = 0x3F := by
  cases k with
  | none => exact .inr rfl
  | some k => exact .inl (indexByte_lt hn k)

theorem actionCode_le (a : FilterAction) : a.code.toNat ≤ 2 := by cases a <;> decide

theorem roleCode_le (r : LineRole) : r.code.toNat ≤ 2 := by cases r <;> decide

theorem disciplineCode_le (d : SourceDiscipline) : d.code.toNat ≤ 2 := by cases d <;> decide

theorem polarityCode_le (p : Polarity) : p.code.toNat ≤ 1 := by cases p <;> decide

theorem readStation_eq_none {k h o ra rb rt rs p d : Byte} (hbad : k = 0 ∨ h = 0 ∨ 31 < o.toNat ∨ 15 < ra.toNat ∨
    15 < rb.toNat ∨ 15 < rt.toNat ∨ 15 < rs.toNat ∨ 3 < p.toNat ∨ 2 < d.toNat) :
    readStation k h o ra rb rt rs p d = none := by
  refine Option.eq_none_iff_forall_ne_some.mpr fun c hc => ?_
  obtain ⟨⟨rfl, hk⟩, ⟨rfl, hh⟩, rfl, rfl, rfl, rfl, rfl, rfl, rfl⟩ := readStation_iff.mp hc
  have ho := (flagsByte_five_bits (c.discipline == .flat) c.rotate c.hearOwn c.reportPeers c.attention).1
  have hp := (flagsByte_two_bits (c.policyA == .keepNew) (c.policyB == .keepNew)).1
  have ha := nibbleByte_le c.rankA
  have hb := nibbleByte_le c.rankB
  have ht := nibbleByte_le c.rankTransmit
  have hs := nibbleByte_le c.rankStation
  have hd := actionCode_le c.defaultAction
  obtain hbad | hbad | hbad := hbad
  · exact hk hbad
  · exact hh hbad
  · omega

theorem readLine_eq_none {l r o k u : Byte}
    (hbad : 47 < l.toNat ∨ 2 < r.toNat ∨ 3 < o.toNat ∨ 15 < k.toNat ∨ 15 < u.toNat) : readLine l r o k u = none := by
  refine Option.eq_none_iff_forall_ne_some.mpr fun ⟨j, c⟩ hc => ?_
  obtain ⟨rfl, rfl, rfl, rfl, rfl⟩ := readLine_iff.mp hc
  have hl := indexByte_lt (by decide) j
  have hr := roleCode_le c.role
  have ho := (flagsByte_two_bits (c.trigger == .level) c.acknowledge).1
  have hk := nibbleByte_le c.rank
  have hu := nibbleByte_le c.urgency
  omega

theorem readSource_eq_none {i l d p q : Byte} (hbad : 15 < i.toNat ∨ 47 < l.toNat ∧ l ≠ 0x3F ∨ 2 < d.toNat ∨ p = 0 ∨
    15 < p.toNat ∨ 1 < q.toNat) : readSource i l d p q = none := by
  refine Option.eq_none_iff_forall_ne_some.mpr fun ⟨j, c⟩ hc => ?_
  obtain ⟨rfl, rfl, rfl, ⟨rfl, hp0⟩, rfl⟩ := readSource_iff.mp hc
  have hi := indexByte_lt (by decide) j
  have hl := codeOrNone_lt (by decide) c.line
  have hd := disciplineCode_le c.discipline
  have hp := nibbleByte_le c.pulseFrames
  have hq := polarityCode_le c.polarity
  obtain hbad | ⟨hbad, hne⟩ | hbad | hbad | hbad := hbad
  · omega
  · exact hne (hl.resolve_left (by omega))
  · omega
  · exact hp0 hbad
  · omega

theorem readFilter_eq_none {i o : Byte} {x y : Word16} {n a : Byte} (hbad : 15 < i.toNat ∨ 3 < o.toNat ∨ 2047 < x.toNat ∨
    2047 < y.toNat ∨ 31 < n.toNat ∧ n ≠ 0x3F ∨ 2 < a.toNat ∨ o.toNat < 2 ∧ y < x) : readFilter i o x y n a = none := by
  refine Option.eq_none_iff_forall_ne_some.mpr fun ⟨j, c⟩ hc => ?_
  obtain ⟨rfl, rfl, rfl, rfl, rfl, rfl, hr⟩ := readFilter_iff.mp hc
  have hi := indexByte_lt (by decide) j
  have ho := (flagsByte_two_bits c.enabled (c.form == .pattern)).1
  have hx := tagWord_le c.first
  have hy := tagWord_le c.second
  have hn := codeOrNone_lt (by decide) c.sender
  have ha := actionCode_le c.action
  obtain hbad | hbad | hbad | hbad | ⟨hbad, hne⟩ | hbad | ⟨hrange, hlt⟩ := hbad
  · omega
  · omega
  · omega
  · omega
  · exact hne (hn.resolve_left (by omega))
  · omega
  · have hform : c.form = .range := by
      cases hf : c.form with
      | range => rfl
      | pattern =>
        have hbyte : ∀ e : Bool, ¬ (flagsByte [e, true]).toNat < 2 := by decide
        rw [hf] at hrange
        exact absurd hrange (hbyte c.enabled)
    have hle := hr hform
    rw [BitVec.lt_def, BitVec.toNat_setWidth, BitVec.toNat_setWidth] at hlt
    rw [BitVec.le_def] at hle
    omega

end Sys2Proof.Machine

namespace Sys2Proof

open Machine

/-- Settles O12, by the rows of the answer table: an entry read, no entry read, not DETACHED. -/
theorem configureStationWritesSection : Obligations.ConfigureStationWritesSection := by
  refine ⟨configurationCodes, fun s hr => ⟨fun c hk hh hl => ?_, fun _ _ _ _ _ _ _ _ _ => ⟨fun hl hbad => ?_, fun hl => ?_⟩⟩⟩
  · rw [exec_configureStation]
    exact takeCommand_configure_some hr hl
      (readStation_iff.mpr ⟨⟨rfl, hk⟩, ⟨rfl, hh⟩, rfl, rfl, rfl, rfl, rfl, rfl, rfl⟩)
  · rw [exec_configureStation]
    exact takeCommand_configure_none hr hl (readStation_eq_none hbad)
  · rw [exec_configureStation]
    exact takeCommand_configure_refused hr hl

/-- Settles O13, by the rows of the answer table. -/
theorem configureLineWritesSubscription : Obligations.ConfigureLineWritesSubscription := by
  refine ⟨configurationCodes, fun s hr => ⟨fun k c hl => ?_, fun _ _ _ _ _ => ⟨fun hl hbad => ?_, fun hl => ?_⟩⟩⟩
  · rw [exec_configureLine, takeCommand_configure_some hr hl (readLine_iff.mpr ⟨rfl, rfl, rfl, rfl, rfl⟩)]
  · rw [exec_configureLine]
    exact takeCommand_configure_none hr hl (readLine_eq_none hbad)
  · rw [exec_configureLine]
    exact takeCommand_configure_refused hr hl

/-- Settles O14, by the rows of the answer table. -/
theorem configureSourceWritesFields : Obligations.ConfigureSourceWritesFields := by
  refine ⟨configurationCodes, fun s hr => ⟨fun i c hp hl => ?_, fun _ _ _ _ _ => ⟨fun hl hbad => ?_, fun hl => ?_⟩⟩⟩
  · have hp8 : c.pulseFrames.setWidth 8 ≠ 0 := by
      intro h
      have hnat := congrArg BitVec.toNat h
      rw [BitVec.toNat_setWidth, Nat.mod_eq_of_lt (by omega)] at hnat
      exact hp (BitVec.eq_of_toNat_eq hnat)
    rw [exec_configureSource, takeCommand_configure_some hr hl (readSource_iff.mpr ⟨rfl, rfl, rfl, ⟨rfl, hp8⟩, rfl⟩)]
  · rw [exec_configureSource]
    exact takeCommand_configure_none hr hl (readSource_eq_none hbad)
  · rw [exec_configureSource]
    exact takeCommand_configure_refused hr hl

/-- Settles O15, by the rows of the answer table. -/
theorem configureFilterWritesEntry : Obligations.ConfigureFilterWritesEntry := by
  refine ⟨configurationCodes, fun s hr => ⟨fun i c hf hl => ?_, fun _ _ _ _ _ _ => ⟨fun hl hbad => ?_, fun hl => ?_⟩⟩⟩
  · rw [exec_configureFilter, takeCommand_configure_some hr hl (readFilter_iff.mpr ⟨rfl, rfl, rfl, rfl, rfl, rfl, hf⟩)]
  · rw [exec_configureFilter]
    exact takeCommand_configure_none hr hl (readFilter_eq_none hbad)
  · rw [exec_configureFilter]
    exact takeCommand_configure_refused hr hl

/-- Settles O16: the bytes written are the layout of the entry that was read from them. -/
theorem configureThenReadGivesTheBytesBack : Obligations.ConfigureThenReadGivesTheBytesBack := by
  intro s t hr hl ht
  refine ⟨fun k h o ra rb rt rs p d hx => ?station, fun l r o k u hx => ?line, fun i l d p q hx => ?source,
    fun i o x y n a hx => ?filter⟩
  case station =>
    rw [exec_configureStation] at hx
    obtain ⟨c, hread, hc, htaken⟩ := takeCommand_configure_ok hr hl hx ht
    obtain ⟨⟨rfl, -⟩, ⟨rfl, -⟩, rfl, rfl, rfl, rfl, rfl, rfl, rfl⟩ := readStation_iff.mp hread
    have hindex : readIndex 1 0 = some 0 := readIndex_ofNat (by decide) 0
    have hentry : t.config.entryBytes 0 0 = some c.bytes := by rw [entryBytes_station, hindex, Option.map_some, hc]
    have hu := exec_readConfiguration_response htaken hentry
    rw [hc, stationBytes_eq] at hu
    exact hu
  case line =>
    rw [exec_configureLine] at hx
    obtain ⟨⟨j, c⟩, hread, hc, htaken⟩ := takeCommand_configure_ok hr hl hx ht
    obtain ⟨rfl, rfl, rfl, rfl, rfl⟩ := readLine_iff.mp hread
    have hentry : t.config.entryBytes 1 (BitVec.ofNat 8 j.val) = some (c.bytes j) := by
      rw [entryBytes_line, readIndex_ofNat (by decide) j, Option.map_some, hc, tablePut_get, if_pos rfl]
    have hu := exec_readConfiguration_response htaken hentry
    rw [hc, lineBytes_eq] at hu
    exact hu
  case source =>
    rw [exec_configureSource] at hx
    obtain ⟨⟨j, c⟩, hread, hc, htaken⟩ := takeCommand_configure_ok hr hl hx ht
    obtain ⟨rfl, rfl, rfl, ⟨rfl, -⟩, rfl⟩ := readSource_iff.mp hread
    have hentry : t.config.entryBytes 2 (BitVec.ofNat 8 j.val) = some (c.bytes j) := by
      rw [entryBytes_source, readIndex_ofNat (by decide) j, Option.map_some, hc, tablePut_get, if_pos rfl]
    have hu := exec_readConfiguration_response htaken hentry
    rw [hc, sourceBytes_eq] at hu
    exact hu
  case filter =>
    rw [exec_configureFilter] at hx
    obtain ⟨⟨j, c⟩, hread, hc, htaken⟩ := takeCommand_configure_ok hr hl hx ht
    obtain ⟨rfl, rfl, rfl, rfl, rfl, rfl, -⟩ := readFilter_iff.mp hread
    have hentry : t.config.entryBytes 3 (BitVec.ofNat 8 j.val) = some (c.bytes j) := by
      rw [entryBytes_filter, readIndex_ofNat (by decide) j, Option.map_some, hc, tablePut_get, if_pos rfl]
    have hu := exec_readConfiguration_response htaken hentry
    rw [hc, filterBytes_eq] at hu
    exact hu

end Sys2Proof
end

section
/-! SUPPORT. Membership (chapters 3 and 4): JOIN and LEAVE, the entries to DETACHED and WITHDRAWN, and the steps a count brings about. -/

namespace Sys2Proof.Machine

open Sys2Proof

/-! ## Events of one step (4.6) -/

theorem recordsGroups_recordGroups (s : State) {m c : List StationEvent} (hm : ∀ e ∈ m, e.ofClaimUnit = false)
    (hc : ∀ e ∈ c, e.ofClaimUnit = true) :
    RecordsGroups s.membership.events (s.recordGroups m c).membership.events s.image.frameNumber m c := by
  obtain ⟨hmember, hclaim⟩ := interleave_filter StationEvent.ofClaimUnit Config.eventOrder (m.length + c.length) s.freeIndex m c hm hc
  refine ⟨interleave Config.eventOrder (m.length + c.length) s.freeIndex m c, ?_, hmember, hclaim⟩
  rw [recordGroups_eq]
  rfl

/-- The two spellings of the ABANDONED events are one. -/
theorem abandonEvents_eq (s : State) : s.abandonEvents = s.abandonments := by
  unfold State.abandonEvents State.abandonments Claims.engagedLines
  refine congrArg (List.map StationEvent.abandoned) (List.filter_congr fun k _ => ?_)
  cases s.claims.records[k] <;> rfl

theorem abandonEvents_ofClaimUnit (s : State) : ∀ e ∈ s.abandonEvents, e.ofClaimUnit = true := by
  intro e he
  obtain ⟨k, -, rfl⟩ := List.mem_map.mp he
  rfl

/-! ## JOIN and LEAVE -/

theorem exec_join (s : State) : exec .join s = execJoin s := rfl

theorem exec_leave (s : State) : exec .leave s = execLeave s := rfl

/-- R57: the station after a taken JOIN, as one update. -/
theorem joinTaken_eq (s : State) : s.joinTaken = { s with
    membership := { s.membership with
      link := .listening, tally := 0, level := .clean, listeningCount := 0, helloKey := none, remembered := none
      roster := Table.of fun _ => ⟨false, 0⟩, rosterBaseline := true
      events := recordedAfter s.membership.events 0
        ((if s.membership.level = FaultLevel.clean then [] else [StationEvent.levelChanged .clean]) ++
          [StationEvent.linkChanged .listening]) }
    image := ⟨Table.of fun _ => ⟨false, false, false, .nobody, false, false, 0⟩, 0, true⟩
    line := { s.line with
      medium := .unsynced, phase := .noFrame, lastAcceptedPlan := .silent, followOn := false
      sld := .recessive, slb := .recessive
      quietTimer := .running, guardTimer := .stopped, keepaliveTimer := .running, stuckTimer := .running } } := by
  unfold State.joinTaken
  dsimp only
  by_cases h : s.membership.level = .clean
  · rw [if_pos (beq_iff_eq.mpr h), if_pos h]
    rfl
  · rw [if_neg (fun e => h (beq_iff_eq.mp e)), if_neg h]
    rfl

/-! ## The entries to DETACHED and WITHDRAWN -/

theorem detach_eq (d : Dispatch) : d.detach = { d with
    inService := orphanLines d.inService, edgeFlags := Table.of fun _ => false, serveFlags := Table.of fun _ => false } := by
  have h : (d.inService.map fun e => if e.kind.ofLine then { e with orphaned := true } else e) = orphanLines d.inService := by
    refine List.map_congr_left fun e _ => ?_
    cases e.kind <;> simp [DeliveryKind.ofLine]
  unfold Dispatch.detach
  rw [h]

theorem clear_eq (r : SourceRun) : r.clear = ⟨false, false, 0, false, false, r.filtered⟩ := rfl

/-- R36, R38: what handing back does to the transmit list: nothing, or the CONTENDING entry offered is WAITING again, or DONE
(CANCELLED) where its cancel was requested. -/
theorem handBackOffered_sender (s : State) :
    (∀ h, s.offersNotice h = false) ∧ s.handBackOffered.sender = s.sender ∨
    ∃ g e, s.sender.entries[g] = some e ∧ e.state = .contending ∧ (∀ h, s.offersNotice h = decide (h = g)) ∧
      s.handBackOffered.sender = if e.cancelRequested then s.sender.done g e .cancelled
        else s.sender.setEntry g (some { e with state := .waiting }) := by
  have hother (ho : ∀ h, s.contention.offered ≠ some (.notice h)) (h : Handle) : s.offersNotice h = false := by
    simp [State.offersNotice, ho h]
  rw [handBackOffered_eq]
  cases ho : s.contention.offered with
  | none => exact .inl ⟨hother fun h => by rw [ho]; simp, rfl⟩
  | some i =>
    cases i with
    | hello => exact .inl ⟨hother fun h => by rw [ho]; simp, rfl⟩
    | claim k => exact .inl ⟨hother fun h => by rw [ho]; simp, rfl⟩
    | notice g =>
      have hoff (h : Handle) : s.offersNotice h = (decide (h = g) && s.sender.entries[g].any fun e => e.state == .contending) := by
        unfold State.offersNotice
        rw [ho]
        by_cases hg : h = g
        · subst hg
          simp
        · have : (some (Item.notice g) == some (Item.notice h)) = false := by
            simpa using fun e => hg e.symm
          simp [this, hg]
      cases he : s.sender.entries[g] with
      | none =>
        refine .inl ⟨fun h => by rw [hoff, he]; simp, ?_⟩
        simp only [Sender.handBack, he]
      | some e =>
        by_cases hc : e.state = .contending
        · refine .inr ⟨g, e, he, hc, fun h => by rw [hoff, he]; simp [hc], ?_⟩
          simp only [Sender.handBack, he, if_pos hc]
        · refine .inl ⟨fun h => by rw [hoff, he]; simp [hc], ?_⟩
          simp only [Sender.handBack, he, if_neg hc]

section
variable {t : Sender}

/-- R134: in a transmit list in order every WAITING entry becomes DONE (CANCELLED). -/
theorem cancelAll_entries (ht : t.InOrder) (h : Handle) : t.cancelAll.entries[h] =
    t.entries[h].map fun e => if e.state = .waiting then { e with state := .done .cancelled } else e := by
  obtain ⟨hentries, -, -⟩ := cancelAll_spec t ht.postingOnce
  rw [hentries]
  split
  · rfl
  · next hn =>
    cases he : t.entries[h] with
    | none => rfl
    | some e =>
      have hw : e.state ≠ .waiting := fun hw => hn ((ht.posting h).mpr (by rw [he, entryPosted_some, hw]; rfl))
      simp [hw]

end

/-- Whether the cancel of an entry is requested. -/
def State.cancelAsked (s : State) (h : Handle) : Bool := s.sender.entries[h].any (·.cancelRequested)

theorem offersNotice_not_waiting {s : State} {h : Handle} (ho : s.offersNotice h = true) :
    entryWaiting s.sender.entries[h] = false := by
  unfold State.offersNotice at ho
  cases he : s.sender.entries[h] with
  | none => rfl
  | some e =>
    rw [he] at ho
    simp only [Option.any_some, Bool.and_eq_true, beq_iff_eq] at ho
    rw [entryWaiting, ho.2]
    rfl

/-- R38, R134: the transmit list after the offered item is handed back, by entry and order. -/
theorem handBackOffered_list (s : State) :
    (∀ h : Handle, s.handBackOffered.sender.entries[h] = s.sender.entries[h].map fun e =>
      if s.offersNotice h then { e with state := if e.cancelRequested then .done .cancelled else .waiting } else e) ∧
    (∀ h : Handle, entryWaiting s.handBackOffered.sender.entries[h] =
      (entryWaiting s.sender.entries[h] || s.offersNotice h && !s.cancelAsked h)) ∧
    s.handBackOffered.sender.posting = s.sender.posting.filter (fun h => !(s.offersNotice h && s.cancelAsked h)) ∧
    s.handBackOffered.sender.reports =
      s.sender.reports ++ (List.finRange 4).filter fun h => s.offersNotice h && s.cancelAsked h := by
  obtain ⟨hoff, ht⟩ | ⟨g, e, he, hc, hoff, ht⟩ := handBackOffered_sender s
  · rw [ht]
    simp [hoff]
  · have hentries (h : Handle) : s.handBackOffered.sender.entries[h] =
        if h = g then some { e with state := if e.cancelRequested then .done .cancelled else .waiting }
        else s.sender.entries[h] := by
      rw [ht]
      by_cases hq : e.cancelRequested
      · rw [if_pos hq, if_pos hq]
        exact tablePut_get _ _ _ _
      · rw [if_neg hq, if_neg hq]
        exact tablePut_get _ _ _ _
    have hasked : s.cancelAsked g = e.cancelRequested := by rw [State.cancelAsked, he]; rfl
    have hone : ∀ g : Handle, (List.finRange 4).filter (fun h => decide (h = g)) = [g] := by decide
    refine ⟨fun h => ?_, fun h => ?_, ?_, ?_⟩
    · rw [hentries, hoff]
      by_cases hg : h = g
      · subst hg
        simp [he]
      · simp [hg]
    · rw [hentries, hoff]
      by_cases hg : h = g
      · subst hg
        rw [if_pos rfl, he, hasked]
        cases e.cancelRequested <;> simp [entryWaiting, hc]
      · simp [hg]
    · have hposting : s.handBackOffered.sender.posting =
          s.sender.posting.filter fun h => !(decide (h = g) && e.cancelRequested) := by
        rw [ht]
        cases e.cancelRequested <;> simp [Sender.done, Sender.setEntry]
      rw [hposting]
      refine List.filter_congr fun h _ => ?_
      rw [hoff]
      by_cases hg : h = g
      · rw [hg, hasked]
      · simp [hg]
    · have hreports : s.handBackOffered.sender.reports =
          s.sender.reports ++ (List.finRange 4).filter fun h => decide (h = g) && e.cancelRequested := by
        rw [ht]
        cases e.cancelRequested <;> simp [Sender.done, Sender.setEntry, hone]
      rw [hreports]
      refine congrArg (s.sender.reports ++ ·) (List.filter_congr fun h _ => ?_)
      rw [hoff]
      by_cases hg : h = g
      · rw [hg, hasked]
      · simp [hg]

/-- R134, R38: the transmit list at an entry to DETACHED or WITHDRAWN. -/
theorem detached_sender {s : State} (hs : s.TransmitOk) :
    (∀ h : Handle, s.handBackOffered.sender.cancelAll.entries[h] = s.sender.entries[h].map fun e =>
      if e.state = .waiting ∨ s.offersNotice h then { e with state := .done .cancelled } else e) ∧
    s.handBackOffered.sender.cancelAll.posting = (s.sender.posting.filter fun h =>
      !(entryWaiting s.sender.entries[h] || s.offersNotice h)) ∧
    s.handBackOffered.sender.cancelAll.reports = s.sender.reports ++
      ((List.finRange 4).filter fun h => s.offersNotice h && s.sender.entries[h].any (·.cancelRequested)) ++
      (s.sender.posting.filter fun h => entryWaiting s.sender.entries[h] ||
        s.offersNotice h && !s.sender.entries[h].any (·.cancelRequested)) := by
  have hin := handBackOffered_inOrder ((transmitOk_iff s).mp hs)
  obtain ⟨hentries, hwaiting, hposting, hreports⟩ := handBackOffered_list s
  obtain ⟨-, hcposting, hcreports⟩ := cancelAll_spec _ hin.postingOnce
  refine ⟨fun h => ?_, ?_, ?_⟩
  · rw [cancelAll_entries hin, hentries, Option.map_map]
    refine congrFun (congrArg Option.map (funext fun e => ?_)) _
    simp only [Function.comp_apply]
    cases s.offersNotice h with
    | false => simp
    | true =>
      cases hq : e.cancelRequested <;> simp
  · rw [hcposting, hposting, List.filter_filter]
    refine List.filter_congr fun h _ => ?_
    rw [hwaiting]
    cases entryWaiting s.sender.entries[h] <;> cases s.offersNotice h <;> cases s.cancelAsked h <;> rfl
  · rw [hcreports, hreports, hposting, List.filter_filter]
    refine congrArg _ (List.filter_congr fun h _ => ?_)
    rw [hwaiting]
    show _ = (entryWaiting s.sender.entries[h] || s.offersNotice h && !s.cancelAsked h)
    have hexclusive := offersNotice_not_waiting (s := s) (h := h)
    cases ho : s.offersNotice h with
    | false => simp
    | true =>
      rw [hexclusive ho]
      cases s.cancelAsked h <;> rfl

section
variable (s : State)

theorem enterDetached_membership : s.enterDetached.membership = { s.membership with
    link := .detached, listeningCount := 0, helloKey := none, remembered := none
    roster := Table.of fun _ => ⟨false, 0⟩, rosterBaseline := true, events := s.enterDetached.membership.events } := by
  rw [enterDetached_eq]
  simp only [State.detachBlocks, handBackOffered_eq, Membership.emptyRoster]
  rfl

theorem enterDetached_events : RecordsGroups s.membership.events s.enterDetached.membership.events s.image.frameNumber
    [.linkChanged .detached] s.abandonments := by
  have h := recordsGroups_recordGroups s.detachBlocks (m := [.linkChanged .detached]) (c := s.abandonEvents)
    (fun e he => by rw [List.mem_singleton.mp he]; rfl) (abandonEvents_ofClaimUnit s)
  have hevents : s.detachBlocks.membership.events = s.membership.events := by
    simp [State.detachBlocks, handBackOffered_eq, Membership.emptyRoster]
  have hframe : s.detachBlocks.image.frameNumber = s.image.frameNumber := by
    simp [State.detachBlocks, handBackOffered_eq, Image.emptied]
  rw [hevents, hframe, abandonEvents_eq] at h
  exact h

theorem enterDetached_line : s.enterDetached.line = { s.line with
    medium := .unsynced, phase := .noFrame, lastAcceptedPlan := .silent, followOn := false
    sld := .recessive, slb := .recessive
    quietTimer := .stopped, guardTimer := .stopped, keepaliveTimer := .stopped, stuckTimer := .stopped } := by
  rw [enterDetached_eq]
  simp only [State.detachBlocks, handBackOffered_eq, LineController.idle]

theorem enterDetached_contention : s.enterDetached.contention = { s.contention with offered := none } := by
  rw [enterDetached_eq]
  simp only [State.detachBlocks, handBackOffered_eq]

theorem enterDetached_sources : s.enterDetached.sources = Table.of fun i => s.sources[i].clear := by
  rw [enterDetached_eq]
  simp only [State.detachBlocks, handBackOffered_eq]

theorem enterDetached_image : s.enterDetached.image =
    ⟨Table.of fun _ => ⟨false, false, false, .nobody, false, false, 0⟩, s.image.frameNumber, true⟩ := by
  rw [enterDetached_eq]
  simp only [State.detachBlocks, handBackOffered_eq, Image.emptied]
  rfl

theorem enterDetached_claims : s.enterDetached.claims = .reset := by
  rw [enterDetached_eq]
  simp only [State.detachBlocks, Claims.cleared]

theorem enterDetached_sender : s.enterDetached.sender = s.handBackOffered.sender.cancelAll := by
  rw [enterDetached_eq]
  rfl

theorem enterDetached_dispatch : s.enterDetached.dispatch = s.dispatch.detach := by
  rw [enterDetached_eq]
  simp only [State.detachBlocks, handBackOffered_eq]

theorem enterDetached_kept : s.enterDetached.config = s.config ∧ s.enterDetached.straps = s.straps ∧
    s.enterDetached.errors = s.errors ∧ s.enterDetached.receiver = s.receiver ∧ s.enterDetached.port = s.port := by
  rw [enterDetached_eq]
  simp only [State.detachBlocks, handBackOffered_eq]
  exact ⟨trivial, trivial, trivial, trivial, trivial⟩

theorem enterWithdrawn_membership : s.enterWithdrawn.membership = { s.membership with
    link := .withdrawn, remembered := none, events := s.enterWithdrawn.membership.events } := by
  rw [enterWithdrawn_eq]
  simp only [State.withdrawBlocks, handBackOffered_eq]

theorem enterWithdrawn_events : RecordsGroups s.membership.events s.enterWithdrawn.membership.events s.image.frameNumber
    [.linkChanged .withdrawn] s.abandonments := by
  have h := recordsGroups_recordGroups s.withdrawBlocks (m := [.linkChanged .withdrawn]) (c := s.abandonEvents)
    (fun e he => by rw [List.mem_singleton.mp he]; rfl) (abandonEvents_ofClaimUnit s)
  have hevents : s.withdrawBlocks.membership.events = s.membership.events := by
    simp [State.withdrawBlocks, handBackOffered_eq]
  have hframe : s.withdrawBlocks.image.frameNumber = s.image.frameNumber := by
    simp [State.withdrawBlocks, handBackOffered_eq]
  rw [hevents, hframe, abandonEvents_eq] at h
  exact h

theorem enterWithdrawn_line : s.enterWithdrawn.line = { s.enterDetached.line with lastAcceptedPlan := s.line.lastAcceptedPlan } := by
  rw [enterWithdrawn_eq, enterDetached_line]
  simp only [State.withdrawBlocks, handBackOffered_eq, LineController.idle]

theorem enterWithdrawn_as_detached : s.enterWithdrawn.contention = s.enterDetached.contention ∧
    s.enterWithdrawn.sources = s.enterDetached.sources ∧ s.enterWithdrawn.image = s.image ∧
    s.enterWithdrawn.claims = s.enterDetached.claims ∧ s.enterWithdrawn.sender = s.enterDetached.sender ∧
    s.enterWithdrawn.dispatch = s.enterDetached.dispatch := by
  rw [enterWithdrawn_eq, enterDetached_contention, enterDetached_sources, enterDetached_claims, enterDetached_sender,
    enterDetached_dispatch]
  simp only [State.withdrawBlocks, handBackOffered_eq, Claims.cleared]
  exact ⟨trivial, trivial, trivial, trivial, trivial, trivial⟩

theorem enterWithdrawn_kept : s.enterWithdrawn.config = s.config ∧ s.enterWithdrawn.straps = s.straps ∧
    s.enterWithdrawn.errors = s.errors ∧ s.enterWithdrawn.receiver = s.receiver ∧ s.enterWithdrawn.port = s.port := by
  rw [enterWithdrawn_eq]
  simp only [State.withdrawBlocks, handBackOffered_eq]
  exact ⟨trivial, trivial, trivial, trivial, trivial⟩

end

/-! ## The steps a count brings about -/

/-- A step that changes nothing, with ATTN as it should be. -/
theorem complete_self {s : State} (hs : s.AttnOk) : complete s s = .next s :=
  congrArg Host.Outcome.next (settle_eq_self hs rfl rfl fun _ => rfl)

theorem exec_withdrawal (s : State) : exec .withdrawal s = complete s s.withdrawIfDue := rfl

theorem exec_provingEntry (s : State) : exec .provingEntry s =
    complete s (if s.provingDue then s.becomeProving.record (.linkChanged .proving) else s) := rfl

theorem exec_peerLost (n : StationNo) (s : State) : exec (.peerLost n) s =
    complete s (if s.membership.roster[n].lossDue then s.losePeer n else s) := rfl

theorem withdrawalDue_iff (s : State) : s.withdrawalDue = true ↔
    255 ≤ s.membership.tally ∧ s.membership.link.participates = true := by simp [State.withdrawalDue]

theorem provingDue_iff (s : State) : s.provingDue = true ↔ s.membership.link = .listening ∧ 2 ≤ s.membership.listeningCount := by
  simp [State.provingDue]

theorem lossDue_iff (e : RosterEntry) : e.lossDue = true ↔ e.present = true ∧ 2 < e.absentCount := by simp [RosterEntry.lossDue]

/-- R96: the owner of a line when one station is lost. -/
theorem removeOwner_one (n : StationNo) (r : LineRecord) : { r with owner := removeOwner (· == n) r.held r.owner } =
    if r.owner = .station n then { r with owner := if r.held then .unknown else .nobody } else r := by
  obtain ⟨asserted, held, marked, owner, rose, fell, lastChange⟩ := r
  cases owner with
  | station m =>
    by_cases h : m = n
    · simp [removeOwner, h]
    · simp [removeOwner, h]
  | unknown => simp [removeOwner]
  | nobody => simp [removeOwner]

end Sys2Proof.Machine

namespace Sys2Proof

open Machine

/-- Settles O18, by the rows of JOIN's answer table. -/
theorem joinStartsListening : Obligations.JoinStartsListening := by
  intro s hr
  refine ⟨fun hl => ?_, fun hl hc => ?_, fun hl hc => ?_⟩ <;> rw [exec_join, execJoin, takeCommand_eq _ s hr]
  · rw [if_pos hl]
    rfl
  · rw [if_neg (not_not.mpr hl), if_neg (by rw [hc]; decide)]
    rfl
  · rw [if_neg (not_not.mpr hl), if_pos hc, joinTaken_eq]
    rfl

/-- Settles O19, by the link state. -/
theorem leaveByLinkState : Obligations.LeaveByLinkState := by
  intro s hr
  refine ⟨fun hl => ?_, fun hl hm => ?_, fun hl => ?_⟩ <;> rw [exec_leave, execLeave, takeCommand_eq _ s hr]
  · obtain hl | hl := hl <;> rw [hl] <;> rfl
  · obtain hl | hl := hl <;> rw [hl, if_pos hm] <;> rfl
  · obtain hl | hl | hl | ⟨hl | hl, hm⟩ := hl
    · rw [hl]; rfl
    · rw [hl]; rfl
    · rw [hl]; rfl
    · rw [hl, if_neg hm]; rfl
    · rw [hl, if_neg hm]; rfl

/-- Settles O20, block by block. -/
theorem entryToDetachedEmptiesTheStation : Obligations.EntryToDetachedEmptiesTheStation := by
  intro s hs
  obtain ⟨hentries, hposting, hreports⟩ := detached_sender hs
  dsimp only
  rw [enterDetached_sender]
  refine ⟨enterDetached_membership s, enterDetached_events s, enterDetached_line s, enterDetached_contention s, fun i => ?_,
    enterDetached_image s, fun k => ?_, hentries, hposting, hreports, ?_, enterDetached_kept s⟩
  · rw [enterDetached_sources, tableOf_get, clear_eq]
  · rw [enterDetached_claims]
    exact ⟨tableOf_get _ k, tableOf_get _ k⟩
  · rw [enterDetached_dispatch, detach_eq]

/-- Settles O21: the step by its guard, and the entry block by block. -/
theorem withdrawalAtTheTallysCeiling : Obligations.WithdrawalAtTheTallysCeiling := by
  intro s
  refine ⟨fun ht hl => ?_, fun hs hl => ?_, ?_⟩
  · have hdue : s.withdrawalDue = true :=
      (withdrawalDue_iff s).mpr ⟨ht.ge, by obtain hl | hl | hl | hl := hl <;> rw [hl] <;> rfl⟩
    rw [exec_withdrawal, State.withdrawIfDue, if_pos hdue, complete]
  · have hdue : ¬ s.withdrawalDue = true := by
      rw [withdrawalDue_iff]
      rintro ⟨ht, hp⟩
      obtain hl | hl | hl | hl := hl
      · omega
      all_goals rw [hl] at hp; cases hp
    rw [exec_withdrawal, State.withdrawIfDue, if_neg hdue, complete_self hs]
  · obtain ⟨hcontention, hsources, himage, hclaims, hsender, hdispatch⟩ := enterWithdrawn_as_detached s
    exact ⟨enterWithdrawn_membership s, enterWithdrawn_events s, enterWithdrawn_line s, hcontention, hsources, himage, hclaims,
      hsender, hdispatch, enterWithdrawn_kept s⟩

/-- Settles O22: each step by its guard. -/
theorem provingEntryAndPeerLostAtTheirCounts : Obligations.ProvingEntryAndPeerLostAtTheirCounts := by
  refine ⟨fun s => ⟨fun hl hn => ?_, fun hs hn => ?_⟩, fun n s => ⟨fun hp ha => ?_, fun hs hn => ?_⟩⟩
  · rw [exec_provingEntry, if_pos ((provingDue_iff s).mpr ⟨hl, hn⟩)]
    exact ⟨s.membership.keyGenerator + BitVec.ofNat 11 (Config.elapsedClocks s.freeIndex), rfl⟩
  · have hdue : ¬ s.provingDue = true := by
      rw [provingDue_iff]
      rintro ⟨hl, h2⟩
      obtain hn | hn := hn
      · exact hn hl
      · omega
    rw [exec_provingEntry, if_neg hdue, complete_self hs]
  · have hlines : (Table.of fun k : LineNo =>
        { s.image.lines[k] with owner := removeOwner (· == n) s.image.lines[k].held s.image.lines[k].owner }) =
        Table.of fun k : LineNo => if s.image.lines[k].owner = .station n then
          { s.image.lines[k] with owner := if s.image.lines[k].held then .unknown else .nobody } else s.image.lines[k] :=
      congrArg Table.of (funext fun k => removeOwner_one n s.image.lines[k])
    have hevents : (if s.config.station.reportPeers && !s.membership.rosterBaseline then
          appendEvent s.membership.events ⟨.peerLost n, s.image.frameNumber, false⟩ else s.membership.events) =
        recordedAfter s.membership.events s.image.frameNumber
          (if s.config.station.reportPeers ∧ s.membership.rosterBaseline = false then [.peerLost n] else []) := by
      cases s.config.station.reportPeers <;> cases s.membership.rosterBaseline <;> rfl
    rw [exec_peerLost, if_pos ((lossDue_iff _).mpr ⟨hp, ha⟩), losePeer_eq, hlines, hevents]
    rfl
  · have hdue : ¬ s.membership.roster[n].lossDue = true := by
      rw [lossDue_iff]
      rintro ⟨hp, ha⟩
      obtain hn | hn := hn
      · rw [hn] at hp; cases hp
      · omega
    rw [exec_peerLost, if_neg hdue, complete_self hs]

end Sys2Proof
end

section
/-! SUPPORT. Dispatch (chapter 10): selection by rank and rotation, TAKE by the kind of its source, FINISH, the masks and what is
presentable. -/

namespace Sys2Proof.Machine

open Sys2Proof

/-! ## Selection (R157) -/

section
variable {n : Nat} {l : List (Fin n)} {d : Fin n}

/-- In an ascending list the first member that meets a condition is the lowest that does. -/
theorem find?_ascending {q : Fin n → Bool} (hl : l.Pairwise (· < ·)) (h : l.find? q = some d) :
    q d = true ∧ ∀ e ∈ l, q e = true → d ≤ e := by
  obtain ⟨hq, before, rest, rfl, hbefore⟩ := List.find?_eq_some_iff_append.mp h
  refine ⟨hq, fun e he hqe => ?_⟩
  obtain he | he := List.mem_append.mp he
  · have hnot := hbefore e he
    rw [hqe] at hnot
    exact absurd hnot (by decide)
  · obtain rfl | he := List.mem_cons.mp he
    · exact le_refl _
    · exact le_of_lt (List.rel_of_pairwise_cons (List.pairwise_append.mp hl).2.1 he)

theorem head?_ascending (hl : l.Pairwise (· < ·)) (h : l.head? = some d) : ∀ e ∈ l, d ≤ e := by
  cases l with
  | nil => cases h
  | cons x l =>
    obtain rfl := Option.some.inj h
    intro e he
    obtain rfl | he := List.mem_cons.mp he
    · exact le_refl _
    · exact le_of_lt (List.rel_of_pairwise_cons hl he)

end

section
variable (s : State)

theorem lowestRank_le {l : List DeliveryNo} {d : DeliveryNo} (h : d ∈ l) : s.lowestRank l ≤ s.rankOf d := by
  induction l with
  | nil => cases h
  | cons x l ih =>
    cases l with
    | nil =>
      obtain rfl := List.mem_singleton.mp h
      exact BitVec.le_refl _
    | cons y l =>
      unfold State.lowestRank
      obtain rfl | h := List.mem_cons.mp h
      · split
        · exact BitVec.le_refl _
        · next hle => exact BitVec.le_of_lt (BitVec.not_le.mp hle)
      · split
        · next hle => exact BitVec.le_trans hle (ih h)
        · exact ih h

theorem lowestRank_mem {l : List DeliveryNo} (h : l ≠ []) : ∃ d ∈ l, s.rankOf d = s.lowestRank l := by
  induction l with
  | nil => exact absurd rfl h
  | cons x l ih =>
    cases l with
    | nil => exact ⟨x, List.mem_singleton_self x, rfl⟩
    | cons y l =>
      unfold State.lowestRank
      split
      · exact ⟨x, List.mem_cons_self, rfl⟩
      · obtain ⟨d, hd, hr⟩ := ih (by simp)
        exact ⟨d, List.mem_cons_of_mem _ hd, hr⟩

/-- The presentable sources of the lowest rank, in ascending order of index (R157). -/
def State.foremost : List DeliveryNo := s.presentables.filter fun d => s.rankOf d == s.lowestRank s.presentables

theorem foremost_ascending : s.foremost.Pairwise (· < ·) :=
  ((List.pairwise_lt_finRange 52).filter _).filter _

theorem mem_foremost (d : DeliveryNo) : d ∈ s.foremost ↔
    s.presentable d = true ∧ ∀ e, s.presentable e = true → s.rankOf d ≤ s.rankOf e := by
  simp only [State.foremost, List.mem_filter, mem_presentables, beq_iff_eq]
  refine and_congr_right fun hd => ⟨fun hr e he => hr ▸ lowestRank_le s ((mem_presentables s e).mpr he), fun hr => ?_⟩
  have hd' := (mem_presentables s d).mpr hd
  obtain ⟨e, he, hre⟩ := lowestRank_mem s (List.ne_nil_of_mem hd')
  exact BitVec.le_antisymm (hre ▸ hr e ((mem_presentables s e).mp he)) (lowestRank_le s hd')

/-- A foremost source and one of its rank. -/
theorem foremost_of_rank {d e : DeliveryNo} (hd : d ∈ s.foremost) (he : s.presentable e = true)
    (hr : s.rankOf e = s.rankOf d) : e ∈ s.foremost := by
  rw [mem_foremost] at hd ⊢
  exact ⟨he, hr ▸ hd.2⟩

theorem foremost_eq_nil : s.foremost = [] ↔ ∀ d, s.presentable d = false := by
  refine ⟨fun h d => ?_, fun h => ?_⟩
  · by_contra hd
    rw [Bool.not_eq_false] at hd
    obtain ⟨e, he, hr⟩ := lowestRank_mem s (List.ne_nil_of_mem ((mem_presentables s d).mpr hd))
    have hmem : e ∈ s.foremost := List.mem_filter.mpr ⟨he, beq_iff_eq.mpr hr⟩
    rw [h] at hmem
    cases hmem
  · refine List.eq_nil_iff_forall_not_mem.mpr fun d hd => ?_
    have hp := ((mem_foremost s d).mp hd).1
    rw [h] at hp
    cases hp

/-- R157: the pointer of the lowest rank. -/
def State.foremostPointer : Option DeliveryNo := s.dispatch.pointers[rankIndex (s.lowestRank s.presentables)]

theorem foremostPointer_eq {d : DeliveryNo} (h : d ∈ s.foremost) :
    s.foremostPointer = s.dispatch.pointers[(⟨(s.rankOf d).toNat, (s.rankOf d).isLt⟩ : Fin 16)] := by
  have hr : s.rankOf d = s.lowestRank s.presentables := by
    unfold State.foremost at h
    exact beq_iff_eq.mp (List.mem_filter.mp h).2
  exact congrArg (fun r : Rank => s.dispatch.pointers[rankIndex r]) hr.symm

theorem selected_unrotated (h : s.config.station.rotate = false ∨ s.foremostPointer = none) :
    s.selected = s.foremost.head? := by
  unfold State.selected
  dsimp only
  split
  · next p hr hp =>
    obtain h | h := h
    · rw [hr] at h; cases h
    · cases hp.symm.trans h
  · rfl
  · rfl

theorem selected_rotated {p : DeliveryNo} (hr : s.config.station.rotate = true) (hp : s.foremostPointer = some p) :
    s.selected = (s.foremost.find? fun d => decide (p < d)).or s.foremost.head? := by
  unfold State.selected
  unfold State.foremostPointer at hp
  dsimp only
  rw [hr, hp]
  exact Option.or_eq_orElse.symm

theorem selected_eq_none : s.selected = none ↔ ∀ d, s.presentable d = false := by
  rw [← foremost_eq_nil]
  cases hr : s.config.station.rotate with
  | false => rw [selected_unrotated s (.inl hr), List.head?_eq_none_iff]
  | true =>
    cases hp : s.foremostPointer with
    | none => rw [selected_unrotated s (.inr hp), List.head?_eq_none_iff]
    | some p =>
      rw [selected_rotated s hr hp, Option.or_eq_none_iff, List.head?_eq_none_iff]
      refine ⟨fun h => h.2, fun h => ⟨?_, h⟩⟩
      rw [h]
      rfl

end

/-- R157: the selected source is one of the foremost; with rotate off or the pointer at START it is the first of them, with the pointer
at `p` the first above `p`, or the first where there is none above. -/
theorem selected_foremost {s : State} {d : DeliveryNo} (h : s.selected = some d) : d ∈ s.foremost ∧
    (s.config.station.rotate = false ∨ s.foremostPointer = none → ∀ e ∈ s.foremost, d ≤ e) ∧
    ∀ p, s.config.station.rotate = true → s.foremostPointer = some p →
      (p < d → ∀ e ∈ s.foremost, p < e → d ≤ e) ∧ (d ≤ p → ∀ e ∈ s.foremost, e ≤ p ∧ d ≤ e) := by
  refine ⟨selected_mem h, fun hn => ?_, fun p hr hp => ?_⟩
  · rw [selected_unrotated s hn] at h
    exact head?_ascending (foremost_ascending s) h
  · rw [selected_rotated s hr hp] at h
    obtain h | ⟨hnone, h⟩ := Option.or_eq_some_iff.mp h
    · obtain ⟨hpd, hmin⟩ := find?_ascending (foremost_ascending s) h
      have hlt : p < d := of_decide_eq_true hpd
      exact ⟨fun _ e he hpe => hmin e he (decide_eq_true hpe), fun hle => absurd hlt (not_lt_of_ge hle)⟩
    · have hle : ∀ e ∈ s.foremost, e ≤ p := fun e he =>
        le_of_not_gt fun hpe => (List.find?_eq_none.mp hnone) e he (decide_eq_true hpe)
      have hmin := head?_ascending (foremost_ascending s) h
      exact ⟨fun hlt => absurd hlt (not_lt_of_ge (hle d (selected_mem (by rw [selected_rotated s hr hp, hnone]; exact h)))),
        fun _ e he => ⟨hle e he, hmin e he⟩⟩

/-! ## TAKE (R162) -/

theorem deliveryCodes : DeliveryCodes :=
  ⟨rfl, rfl, rfl, rfl, rfl, rfl, rfl, rfl, fun _ => ⟨rfl, rfl, rfl, rfl⟩, fun _ => ⟨rfl, rfl⟩, fun _ => ⟨rfl, rfl⟩, fun _ => rfl,
    rfl, rfl, fun _ => ⟨rfl, rfl⟩⟩

theorem exec_take_eq {s : State} (hr : s.port.resetTaken = false) : exec .take s = .next s.taken :=
  congrArg (fun u : State => Host.Outcome.next u.taken) (openTransaction_eq s hr)

/-- Nothing presentable: EMPTY with the withdrawn flag. -/
theorem taken_of_none {s : State} (h : s.selected = none) : s.taken =
    { s with dispatch := { s.dispatch with withdrawn := false, attnLow := false } }.responding
      [0x01, flagsByte [s.dispatch.withdrawn]] := by
  have hdue : s.attentionDue = false := by
    rw [Bool.eq_false_iff]
    intro ha
    obtain ⟨d, hd⟩ := ((attentionDue_eq_true_iff s).mp ha).2
    rw [(selected_eq_none s).mp h] at hd
    cases hd
  have hanswer : (s.answer .empty [flagByte s.dispatch.withdrawn]).attentionDue = false := hdue
  unfold State.taken
  rw [h]
  dsimp only
  unfold State.clearWithdrawn
  rw [hanswer, flagsByte_one]
  rfl

/-- The entry opened on `u`, which is `s` with the source's part taken. -/
def State.entryOpened (s u : State) (d : DeliveryNo) : State :=
  { u with dispatch := { u.dispatch with
      inService := s.dispatch.inService ++ [s.serviceEntry d]
      tokenCounter := nextToken s.dispatch.freshToken
      pointers := s.dispatch.pointers.put (rankIndex (s.rankOf d)) (some d) } }

/-- R162: a source taken, where `u` is the state with its part taken. -/
theorem taken_of_some {s u : State} {d : DeliveryNo} {payload : List Byte} {kind : DeliveryKind} (h : s.selected = some d)
    (hkind : s.kindOf d = kind) (hp : s.payload d = payload) (hu : (s.openEntry d).takeFrom d = s.entryOpened u d) :
    s.taken = s.delivering u d kind payload := by
  subst hkind
  unfold State.taken
  rw [h]
  dsimp only
  rw [hu, hp, State.deliveryHeader, ← flagsByte_one]
  rfl

section
variable (s : State) (d : DeliveryNo)

theorem takeFrom_serve {k : LineNo} (hr : s.config.lines[k].role = .serve) :
    (s.openEntry (lineDelivery k)).takeFrom (lineDelivery k) =
      s.entryOpened { s with dispatch := { s.dispatch with serveFlags := s.dispatch.serveFlags.put k false } } (lineDelivery k) := by
  have hrole : (s.openEntry (lineDelivery k)).config.lines[k].role = .serve := hr
  unfold State.takeFrom
  rw [deliverySource_lineDelivery]
  dsimp only
  rw [hrole]
  rfl

theorem takeFrom_watch {k : LineNo} (hr : s.config.lines[k].role = .watch) :
    (s.openEntry (lineDelivery k)).takeFrom (lineDelivery k) =
      s.entryOpened (if s.config.lines[k].trigger = .edge then
          { s with dispatch := { s.dispatch with edgeFlags := s.dispatch.edgeFlags.put k false } } else s) (lineDelivery k) := by
  have hrole : (s.openEntry (lineDelivery k)).config.lines[k].role = .watch := hr
  have htrigger : (s.openEntry (lineDelivery k)).config.lines[k].trigger = s.config.lines[k].trigger := rfl
  unfold State.takeFrom
  rw [deliverySource_lineDelivery]
  dsimp only
  rw [hrole, htrigger]
  cases s.config.lines[k].trigger <;> rfl

theorem takeFrom_noticeA {r : NoticeRecord} {rs : List NoticeRecord} (h : s.receiver.queueA.records = r :: rs) :
    (s.openEntry 48).takeFrom 48 =
      s.entryOpened { s with receiver := { s.receiver with queueA := { s.receiver.queueA with records := rs } } } 48 := by
  have hrest : (s.openEntry 48).receiver.queueA.records.drop 1 = rs := by
    show s.receiver.queueA.records.drop 1 = rs
    rw [h]
    rfl
  unfold State.takeFrom
  rw [show deliverySource 48 = .noticeA from rfl]
  dsimp only
  rw [hrest]
  rfl

theorem takeFrom_noticeB {r : NoticeRecord} {rs : List NoticeRecord} (h : s.receiver.queueB.records = r :: rs) :
    (s.openEntry 49).takeFrom 49 =
      s.entryOpened { s with receiver := { s.receiver with queueB := { s.receiver.queueB with records := rs } } } 49 := by
  have hrest : (s.openEntry 49).receiver.queueB.records.drop 1 = rs := by
    show s.receiver.queueB.records.drop 1 = rs
    rw [h]
    rfl
  unfold State.takeFrom
  rw [show deliverySource 49 = .noticeB from rfl]
  dsimp only
  rw [hrest]
  rfl

theorem takeFrom_transmit {h : Handle} {hs : List Handle} (hr : s.sender.reports = h :: hs) :
    (s.openEntry 50).takeFrom 50 =
      s.entryOpened { s with sender := { s.sender with entries := s.sender.entries.put h none, reports := hs } } 50 := by
  have hreports : (s.openEntry 50).sender.reports = h :: hs := hr
  unfold State.takeFrom
  rw [show deliverySource 50 = .transmit from rfl]
  dsimp only
  rw [hreports]
  rfl

theorem takeFrom_station {r : EventRecord} {rs : List EventRecord} (h : s.membership.events = r :: rs) :
    (s.openEntry 51).takeFrom 51 = s.entryOpened { s with membership := { s.membership with events := rs } } 51 := by
  have hrest : (s.openEntry 51).membership.events.drop 1 = rs := by
    show s.membership.events.drop 1 = rs
    rw [h]
    rfl
  unfold State.takeFrom
  rw [show deliverySource 51 = .station from rfl]
  dsimp only
  rw [hrest]
  rfl

end

/-- The kind and payload of a line's delivery. -/
theorem line_delivery (s : State) (k : LineNo) :
    s.kindOf (lineDelivery k) = (if s.config.lines[k].role = .serve then .lineServe else .lineWatch) ∧
    s.payload (lineDelivery k) = if s.config.lines[k].role = .serve then s.servePayload k else s.watchPayload k := by
  unfold State.kindOf State.payload
  rw [deliverySource_lineDelivery]
  exact ⟨rfl, rfl⟩

theorem payload_noticeA (s : State) {r : NoticeRecord} {rs : List NoticeRecord} (h : s.receiver.queueA.records = r :: rs) :
    s.payload 48 = r.payload 0 := by
  unfold State.payload
  rw [show deliverySource 48 = .noticeA from rfl]
  dsimp only
  rw [h]

theorem payload_noticeB (s : State) {r : NoticeRecord} {rs : List NoticeRecord} (h : s.receiver.queueB.records = r :: rs) :
    s.payload 49 = r.payload 1 := by
  unfold State.payload
  rw [show deliverySource 49 = .noticeB from rfl]
  dsimp only
  rw [h]

theorem payload_transmit (s : State) {h : Handle} {hs : List Handle} {e : TransmitEntry} {o : NoticeOutcome}
    (hr : s.sender.reports = h :: hs) (he : s.sender.entries[h] = some e) (ho : e.state = .done o) :
    s.payload 50 = [BitVec.ofNat 8 h.val] ++ wordBytes (e.tag.setWidth 16) ++ [o.code] := by
  unfold State.payload
  rw [show deliverySource 50 = .transmit from rfl]
  dsimp only
  rw [hr]
  dsimp only
  rw [he]
  dsimp only
  rw [ho, wordBytes_eq_twoBytes, EntryState.outcomeCode]

theorem payload_station (s : State) {r : EventRecord} {rs : List EventRecord} (h : s.membership.events = r :: rs) :
    s.payload 51 = r.payload := by
  unfold State.payload
  rw [show deliverySource 51 = .station from rfl]
  dsimp only
  rw [h]

theorem servePayload_eq (s : State) (k : LineNo) : s.servePayload k = BitVec.ofNat 8 k.val :: wordBytes s.image.frameNumber := by
  rw [State.servePayload, wordBytes_eq_twoBytes]

theorem watchPayload_eq (s : State) (k : LineNo) : s.watchPayload k =
    [BitVec.ofNat 8 k.val, flagsByte [s.config.lines[k].trigger == .level], flagsByte [s.image.lines[k].asserted]] ++
      wordBytes s.image.lines[k].lastChange ++ wordBytes s.image.frameNumber := by
  rw [State.watchPayload, wordBytes_eq_twoBytes, wordBytes_eq_twoBytes, flagsByte_one, flagsByte_one]

theorem noticePayload_eq (queue : Byte) (r : NoticeRecord) : r.payload queue =
    [queue] ++ wordBytes (r.tag.setWidth 16) ++ [BitVec.ofNat 8 r.sender.val, r.urgency.setWidth 8, BitVec.ofNat 8 r.length]
      ++ wordBytes r.frame ++ [flagsByte [r.gap]] ++ r.data := by
  rw [NoticeRecord.payload, wordBytes_eq_twoBytes, wordBytes_eq_twoBytes, flagsByte_one]

theorem eventPayload_eq (r : EventRecord) : r.payload =
    [r.event.kindCode, r.event.argument] ++ wordBytes r.frame ++ [flagsByte [r.laterLost]] := by
  rw [EventRecord.payload, wordBytes_eq_twoBytes, flagsByte_one]

/-! ## FINISH (R164, R165) -/

theorem handOn_serve {s : State} {e : ServiceEntry} {k : LineNo} {n : Nat} (hk : e.kind = .lineServe)
    (hs : e.source = lineDelivery k) (hn : s.claims.records[k] = .owned n) :
    s.handOn e = { s with claims := s.claims.setRecord k .releasing } := by
  unfold State.handOn
  rw [hk, hs, deliverySource_lineDelivery]
  dsimp only
  rw [hn]

theorem handOn_watch {s : State} {e : ServiceEntry} {k : LineNo} (hk : e.kind = .lineWatch) (hs : e.source = lineDelivery k) :
    s.handOn e = if s.config.lines[k].acknowledge then
      { s with claims := { s.claims with markOwed := s.claims.markOwed.put k true } } else s := by
  unfold State.handOn
  rw [hk, hs, deliverySource_lineDelivery]

theorem handOn_other {s : State} {e : ServiceEntry} (hk : e.kind = .notice ∨ e.kind = .transmit ∨ e.kind = .station) :
    s.handOn e = s := by
  unfold State.handOn
  obtain hk | hk | hk := hk <;> rw [hk]

/-- What finishing an entry answers, for a command that finishes it. -/
theorem finishesEntry {c : Instr} {s : State} {e : ServiceEntry} {rest : List ServiceEntry}
    (hc : exec c s = .next (settle s (s.finishEntry e rest))) : FinishesEntry c s e rest := by
  have horphaned (ho : e.orphaned = true) : s.finishEntry e rest =
      { s with dispatch := { s.dispatch with inService := rest } }.answer .orphaned [] := if_pos ho
  have hlive (ho : e.orphaned = false) : s.finishEntry e rest =
      ({ s with dispatch := { s.dispatch with inService := rest } }.handOn e).answer .ok [] := if_neg (by rw [ho]; decide)
  refine ⟨fun ho => ?_, fun k n ho hk hs hn => ?_, fun k ho hk hs ha => ?_, fun ho hk => ?_⟩ <;> rw [hc]
  · rw [horphaned ho]
    rfl
  · rw [hlive ho, handOn_serve hk hs (by exact hn)]
    rfl
  · rw [hlive ho, handOn_watch hk hs, if_pos ha]
    rfl
  · rw [hlive ho]
    obtain hk | hk | hk | ⟨k, hk, hs, ha⟩ := hk
    · rw [handOn_other (.inl hk)]; rfl
    · rw [handOn_other (.inr (.inl hk))]; rfl
    · rw [handOn_other (.inr (.inr hk))]; rfl
    · rw [handOn_watch hk hs, if_neg (by rw [ha]; decide)]; rfl

theorem exec_finishNewest (s : State) : exec .finishNewest s = execFinishNewest s := rfl

theorem exec_finish (token : Byte) (s : State) : exec (.finish token) s = execFinish token s := rfl

/-! ## Masks and presentable sources (R151 to R156) -/

theorem exec_mask (b : Byte) (s : State) : exec (.mask b) s = execMask b s := rfl

theorem exec_unmask (b : Byte) (s : State) : exec (.unmask b) s = execUnmask b s := rfl

theorem setMask_of_index (s : State) (d : DeliveryNo) (m : Bool) : s.setMask (BitVec.ofNat 8 d.val) m =
    { s with dispatch := { s.dispatch with masks := s.dispatch.masks.put d m } }.responding [0x00] := by
  unfold State.setMask
  rw [readIndex_ofNat (by decide) d]
  rfl

theorem setMask_above (s : State) {b : Byte} (h : 51 < b.toNat) (m : Bool) : s.setMask b m = s.responding [0x04] := by
  unfold State.setMask
  rw [readIndex_of_le h]
  rfl

theorem rankAllowed_iff (s : State) (d : DeliveryNo) : s.rankAllowed d = true ↔
    (s.config.station.discipline = .nested → ∀ e, s.dispatch.inService.getLast? = some e → s.rankOf d < e.rank) := by
  unfold State.rankAllowed
  cases s.config.station.discipline with
  | flat => simp
  | nested =>
    cases s.dispatch.inService.getLast? with
    | none => simp
    | some e => simp

theorem presentable_iff (s : State) (d : DeliveryNo) : s.presentable d = true ↔
    s.sourcePending d = true ∧ s.dispatch.masks[d] = false ∧ (∀ e ∈ s.dispatch.inService, e.source ≠ d) ∧
      s.dispatch.inService.length < 4 ∧
      (s.config.station.discipline = .nested → ∀ e, s.dispatch.inService.getLast? = some e → s.rankOf d < e.rank) := by
  rw [← rankAllowed_iff]
  simp [State.presentable, and_assoc]

theorem sourcePending_line (s : State) (k : LineNo) : s.sourcePending (lineDelivery k) = s.linePending k := by
  unfold State.sourcePending
  rw [deliverySource_lineDelivery]

theorem linePending_iff (s : State) (k : LineNo) : s.linePending k = true ↔
    s.config.lines[k].role = .watch ∧ s.config.lines[k].trigger = .edge ∧ s.dispatch.edgeFlags[k] = true ∨
    s.config.lines[k].role = .watch ∧ s.config.lines[k].trigger = .level ∧ s.membership.link = .joined ∧
      s.image.lines[k].asserted = true ∨
    s.config.lines[k].role = .serve ∧ s.dispatch.serveFlags[k] = true := by
  unfold State.linePending
  cases s.config.lines[k].role with
  | unused => simp
  | watch => cases s.config.lines[k].trigger <;> simp
  | serve => simp

end Sys2Proof.Machine

namespace Sys2Proof

open Machine

/-- Settles O24: the selected source is the first of the foremost ones as rotation asks, and the token the first free value. -/
theorem takeSelectsByRankAndRotation : Obligations.TakeSelectsByRankAndRotation := by
  intro s
  refine ⟨fun k => ⟨rfl, ?_⟩, rfl, rfl, rfl, rfl, selected_eq_none s, fun d hd => ?_, fun ⟨hs, hl⟩ => ?_⟩
  · unfold State.rankOf
    rw [deliverySource_lineDelivery]
  · obtain ⟨hmem, hfirst, hrotated⟩ := selected_foremost hd
    obtain ⟨hpresentable, hlowest⟩ := (mem_foremost s d).mp hmem
    have hsame {e : DeliveryNo} (he : s.presentable e = true) (hr : s.rankOf e = s.rankOf d) : e ∈ s.foremost :=
      foremost_of_rank s hmem he hr
    rw [foremostPointer_eq s hmem] at hfirst hrotated
    refine ⟨hpresentable, hlowest, fun hn e he hr => hfirst hn e (hsame he hr), fun p hrot hp => ?_⟩
    obtain ⟨habove, hwrapped⟩ := hrotated p hrot hp
    exact ⟨fun hlt e he hr => habove hlt e (hsame he hr), fun hle e he hr => hwrapped hle e (hsame he hr)⟩
  · obtain ⟨n, hn, hf, hfree, hheld⟩ := freshToken_free hs hl
    refine ⟨n, hn, hf, hf ▸ nextToken_iterate_ne_zero hs.counter n, fun e he h => hfree (h ▸ List.mem_map_of_mem he),
      fun m hm => ?_⟩
    obtain ⟨e, he, h⟩ := List.mem_map.mp (hheld m hm)
    exact ⟨e, he, h⟩

/-- Settles O25, by the kind of the selected source. -/
theorem takeDeliversTheSelectedSource : Obligations.TakeDeliversTheSelectedSource := by
  refine ⟨deliveryCodes, stationCodes, fun s hr => ⟨fun h => ?empty, fun k h hrole => ?serve, fun k h hrole => ?watch,
    fun r rs h hq => ?noticeA, fun r rs h hq => ?noticeB, fun h hs e o hd hq he ho => ?transmit, fun r rs h hq => ?station⟩⟩ <;>
    rw [exec_take_eq hr]
  case empty => rw [taken_of_none h]
  case serve =>
    obtain ⟨hkind, hp⟩ := line_delivery s k
    rw [if_pos hrole] at hkind hp
    rw [taken_of_some h hkind (hp.trans (servePayload_eq s k)) (takeFrom_serve s hrole)]
  case watch =>
    obtain ⟨hkind, hp⟩ := line_delivery s k
    have hnot : s.config.lines[k].role ≠ .serve := by rw [hrole]; decide
    rw [if_neg hnot] at hkind hp
    rw [taken_of_some h hkind (hp.trans (watchPayload_eq s k)) (takeFrom_watch s hrole)]
  case noticeA =>
    rw [taken_of_some (kind := .notice) h rfl ((payload_noticeA s hq).trans (noticePayload_eq 0 r)) (takeFrom_noticeA s hq)]
  case noticeB =>
    rw [taken_of_some (kind := .notice) h rfl ((payload_noticeB s hq).trans (noticePayload_eq 1 r)) (takeFrom_noticeB s hq)]
  case transmit =>
    rw [taken_of_some (kind := .transmit) hd rfl (payload_transmit s hq he ho) (takeFrom_transmit s hq)]
  case station =>
    rw [taken_of_some (kind := .station) h rfl ((payload_station s hq).trans (eventPayload_eq r)) (takeFrom_station s hq)]

/-- Settles O26: the newest entry, or the one that holds the token, by its kind. -/
theorem finishRemovesEntryAndHandsItOn : Obligations.FinishRemovesEntryAndHandsItOn := by
  intro s hr
  refine ⟨fun hl => ?_, fun rest e hl => finishesEntry ?_, ?_, fun token h0 => ⟨fun hl => ?_, fun hl hn => ?_,
    fun older e newer hl ht hn => finishesEntry ?_⟩⟩
  · rw [exec_finishNewest, execFinishNewest, takeCommand_eq _ s hr, hl]
    rfl
  · rw [exec_finishNewest, execFinishNewest, takeCommand_eq _ s hr, hl, List.getLast?_concat, List.dropLast_concat]
  · rw [exec_finish, execFinish, takeCommand_eq _ s hr, if_pos rfl]
    rfl
  · rw [exec_finish, execFinish, takeCommand_eq _ s hr, if_neg h0, if_pos (by rw [hl]; rfl)]
    rfl
  · have hfind : s.dispatch.inService.find? (·.token == token) = none :=
      List.find?_eq_none.mpr fun e he h => hn e he (beq_iff_eq.mp h)
    rw [exec_finish, execFinish, takeCommand_eq _ s hr, if_neg h0, if_neg (by simpa using hl), hfind]
    rfl
  · have hfind : s.dispatch.inService.find? (·.token == token) = some e :=
      List.find?_eq_some_iff_append.mpr ⟨beq_iff_eq.mpr ht, older, newer, hl, fun o ho => by simpa using hn o ho⟩
    have herase : s.dispatch.inService.eraseP (·.token == token) = older ++ newer := by
      rw [hl, List.eraseP_append_right _ (fun o ho => by simpa using hn o ho), List.eraseP_cons_of_pos (by simpa using ht)]
    rw [exec_finish, execFinish, takeCommand_eq _ s hr, if_neg h0, if_neg (by rw [hl]; simp), hfind, herase]

/-- Settles O27: the masks by the index read, and what is presentable by its five conditions. -/
theorem masksAndPresentableSources : Obligations.MasksAndPresentableSources := by
  refine ⟨fun s hr => ⟨fun d => ⟨?_, ?_⟩, fun b hb => ⟨?_, ?_⟩⟩, fun s d => ⟨presentable_iff s d, fun k => ?_, ?_, ?_, ?_, ?_⟩⟩
  · rw [exec_mask, execMask, takeCommand_eq _ s hr, setMask_of_index]
  · rw [exec_unmask, execUnmask, takeCommand_eq _ s hr, setMask_of_index]
  · rw [exec_mask, execMask, takeCommand_eq _ s hr, setMask_above s hb]
  · rw [exec_unmask, execUnmask, takeCommand_eq _ s hr, setMask_above s hb]
  · rw [sourcePending_line]
    exact linePending_iff s k
  · show (!s.receiver.queueA.records.isEmpty) = true ↔ _
    simp
  · show (!s.receiver.queueB.records.isEmpty) = true ↔ _
    simp
  · show (!s.sender.reports.isEmpty) = true ↔ _
    simp
  · show (!s.membership.events.isEmpty) = true ↔ _
    simp

end Sys2Proof
end

section
/-! SUPPORT. The local sources (chapter 5), the thresholds of a pulse, a claim and a notice, and POST NOTICE and CANCEL NOTICE
(chapter 8). -/

namespace Sys2Proof.Machine

open Sys2Proof

/-! ## Tables -/

theorem tablePut_put {α : Type} {n : Nat} (t : Table α n) (k : Fin n) (x y : α) : (t.put k x).put k y = t.put k y := by
  refine table_ext fun i => ?_
  rw [tablePut_get, tablePut_get, tablePut_get]
  split <;> rfl

theorem tablePut_self {α : Type} {n : Nat} (t : Table α n) (k : Fin n) : t.put k t[k] = t := by
  refine table_ext fun i => ?_
  rw [tablePut_get]
  split
  · next h => rw [h]
  · rfl

/-! ## Sources and edges (R79 to R84) -/

theorem takesEdges_iff (l : LinkState) : l.takesEdges = true ↔ l.onLine := by
  cases l <;> simp [LinkState.takesEdges, LinkState.onLine]

theorem pinActive_iff (p : Polarity) (l : PinLevel) : pinActive p (some l) = true ↔ ActiveLevel p l := by
  cases l <;> cases p <;> simp [pinActive, ActiveLevel]

/-- The model's edge is the one the statements describe. -/
theorem edgeTaken (c : SourceConfig) (r : SourceRun) : EdgeTaken c r (r.edge c) := by
  unfold EdgeTaken SourceRun.edge
  cases c.line with
  | none => exact ⟨fun _ => rfl, fun h => absurd rfl h, fun h => absurd rfl h, fun h => absurd rfl h⟩
  | some k =>
    cases c.discipline with
    | follow => exact ⟨fun _ => rfl, fun _ h => (nomatch h), fun _ h => (nomatch h), fun _ h => absurd rfl h⟩
    | pulse =>
      exact ⟨fun h => (nomatch h), fun _ _ h => if_neg (by rw [h]; decide), fun _ h => (nomatch h), fun _ _ h => if_pos h⟩
    | untilServed =>
      exact ⟨fun h => (nomatch h), fun _ h => (nomatch h), fun _ _ h => if_neg (by rw [h]; decide), fun _ _ h => if_pos h⟩

/-- An edge taken by a source just written. -/
theorem takeEdge_setSource (s : State) (i : SourceNo) (r : SourceRun) (h : s.membership.link.takesEdges = true) :
    (s.setSource i r).takeEdge i = { s with sources := s.sources.put i (r.edge s.config.sources[i]) } := by
  have hget : (s.setSource i r).sources[i] = r := (tablePut_get _ _ _ _).trans (if_pos rfl)
  have hl : (s.setSource i r).membership.link.takesEdges = true := h
  unfold State.takeEdge
  rw [if_pos hl, hget]
  unfold State.setSource
  dsimp only
  rw [tablePut_put]

theorem exec_assertSource (b : Byte) (s : State) : exec (.assertSource b) s = execAssertSource b s := rfl

theorem exec_releaseSource (b : Byte) (s : State) : exec (.releaseSource b) s = execReleaseSource b s := rfl

/-- The byte below 4 of a soft source names its index. -/
theorem readIndex_soft {b : Byte} {i : SourceNo} (h : b.toNat + 12 = i.val) :
    ∃ k : Fin 4, readIndex 4 b = some k ∧ softIndex k = i := by
  have hlt : b.toNat < 4 := by omega
  exact ⟨⟨b.toNat, hlt⟩, dif_pos hlt, Fin.ext (by simp only [softIndex]; omega)⟩

section
variable {s : State} {b : Byte} {effect : SourceNo → State → State}

theorem softCommand_above (h : 3 < b.toNat) : softCommand b effect s = s.responding [0x04] := by
  unfold softCommand
  rw [readIndex_of_le h]
  rfl

theorem softCommand_offLine {i : SourceNo} (h : b.toNat + 12 = i.val) (hl : ¬ s.membership.link.onLine) :
    softCommand b effect s = s.responding [0x03] := by
  obtain ⟨k, hk, -⟩ := readIndex_soft h
  unfold softCommand
  rw [hk]
  exact if_neg fun ht => hl ((takesEdges_iff _).mp ht)

theorem softCommand_onLine {i : SourceNo} (h : b.toNat + 12 = i.val) (hl : s.membership.link.onLine) :
    softCommand b effect s = (effect i s).responding [0x00] := by
  obtain ⟨k, hk, rfl⟩ := readIndex_soft h
  unfold softCommand
  rw [hk]
  exact if_pos ((takesEdges_iff _).mpr hl)

end

theorem exec_qualifiedLevelChange (p : PinNo) (l : PinLevel) (s : State) :
    exec (.qualifiedLevelChange p l) s = complete s (s.pinSettles p l) := rfl

/-- R79: the change of a pin from inactive to active. -/
def State.activates (s : State) (i : SourceNo) (l : PinLevel) : Bool :=
  s.sources[i].filtered.isSome && !pinActive s.config.sources[i].polarity s.sources[i].filtered &&
    pinActive s.config.sources[i].polarity (some l)

theorem pinSettles_eq (s : State) {p : PinNo} {i : SourceNo} (h : i.val = p.val) (l : PinLevel) : s.pinSettles p l =
    if s.activates i l then (s.setSource i { s.sources[i] with filtered := some l }).takeEdge i
    else s.setSource i { s.sources[i] with filtered := some l } := by
  obtain rfl : pinIndex p = i := Fin.ext h.symm
  rfl

theorem activates_iff (s : State) (i : SourceNo) (l : PinLevel) : s.activates i l = true ↔
    ∃ before, s.sources[i].filtered = some before ∧ ¬ ActiveLevel s.config.sources[i].polarity before ∧
      ActiveLevel s.config.sources[i].polarity l := by
  unfold State.activates
  rw [Bool.and_eq_true, pinActive_iff]
  cases s.sources[i].filtered with
  | none => simp
  | some before => simp [← pinActive_iff]

/-! ## Thresholds (R86, R113, R129) -/

theorem exec_pulseExpiry (i : SourceNo) (s : State) : exec (.pulseExpiry i) s =
    complete s (if s.config.sources[i].discipline = .pulse then s.setSource i (s.sources[i].expirePulse s.config.sources[i]) else s) :=
  rfl

theorem exec_holdLimitAbandon (k : LineNo) (s : State) : exec (.holdLimitAbandon k) s =
    complete s (if s.claims.records[k].holdDue s.holdLimit then (s.abandonClaim k).record (.abandoned k) else s) := rfl

theorem exec_noticeVoidedOut (h : Handle) (s : State) : exec (.noticeVoidedOut h) s = execNoticeVoidedOut h s := rfl

theorem pulseDue_iff (r : SourceRun) : r.pulseDue = true ↔ r.holding = true ∧ r.pulseCount = 0 := by simp [SourceRun.pulseDue]

theorem voidDue_iff (e : TransmitEntry) : e.voidDue = true ↔ e.state = .won ∧ e.cancelRequested = false ∧ 8 ≤ e.voidCount := by
  simp [TransmitEntry.voidDue, and_assoc]

theorem setSource_self (s : State) (i : SourceNo) : s.setSource i s.sources[i] = s := by
  unfold State.setSource
  rw [tablePut_self]

/-- R86: a pulse that is not due goes on. -/
theorem expirePulse_not_due (s : State) (i : SourceNo) (h : ¬ (s.config.sources[i].discipline = .pulse ∧
      s.sources[i].holding = true ∧ s.sources[i].pulseCount = 0)) :
    (if s.config.sources[i].discipline = .pulse then s.setSource i (s.sources[i].expirePulse s.config.sources[i]) else s) = s := by
  split
  · next hd =>
    have hdue : ¬ s.sources[i].pulseDue = true := fun hp => h ⟨hd, (pulseDue_iff _).mp hp⟩
    rw [SourceRun.expirePulse, if_neg hdue, setSource_self]
  · rfl

theorem holdDue_eq_false {s : State} {k : LineNo} (h : ∀ n, s.claims.records[k] = .owned n → n < s.holdLimit) :
    s.claims.records[k].holdDue s.holdLimit = false := by
  cases hr : s.claims.records[k] with
  | owned n =>
    have := h n hr
    simp only [ClaimState.holdDue, decide_eq_false_iff_not]
    omega
  | idle => rfl
  | contending => rfl
  | won => rfl
  | releasing => rfl

/-! ## POST NOTICE and CANCEL NOTICE (R126, R130) -/

theorem exec_postNotice (tag : Word16) (u l : Byte) (data : List Byte) (s : State) :
    exec (.postNotice tag u l data) s = execPostNotice tag u l data s := rfl

theorem exec_cancelNotice (b : Byte) (s : State) : exec (.cancelNotice b) s = execCancelNotice b s := rfl

theorem refusesPosts_iff (l : LinkState) : l.refusesPosts = true ↔ l = .detached ∨ l = .leaving ∨ l = .withdrawn := by
  cases l <;> simp [LinkState.refusesPosts]

theorem readNotice_eq_none {tag : Word16} {u l : Byte} {data : List Byte}
    (h : 2047 < tag.toNat ∨ 15 < u.toNat ∨ 8 < l.toNat) : readNotice tag u l data = none := by
  refine Option.eq_none_iff_forall_ne_some.mpr fun x hx => ?_
  simp only [readNotice, Option.bind_eq_bind, Option.bind_eq_some_iff] at hx
  obtain ⟨t, ht, v, hv, hl⟩ := hx
  have htag := tagWord_le t
  have hurgency := nibbleByte_le v
  rw [← readTag_iff.mp ht] at htag
  rw [← readNibble_iff.mp hv] at hurgency
  split at hl
  · omega
  · cases hl

theorem readNotice_bytes (tag : Tag) (u : Urgency) {data : List Byte} (h : data.length ≤ 8) :
    readNotice (tag.setWidth 16) (u.setWidth 8) (BitVec.ofNat 8 data.length) data = some (tag, u, data) := by
  have hl : (BitVec.ofNat 8 data.length).toNat = data.length := by
    rw [BitVec.toNat_ofNat, Nat.mod_eq_of_lt (by omega)]
  have hposted : postedBytes (BitVec.ofNat 8 data.length) = data.length := by rw [postedBytes, hl, if_pos h]
  simp only [readNotice, readTag_iff.mpr rfl, readNibble_iff.mpr rfl, Option.bind_eq_bind, Option.bind_some, hl, h, if_true,
    hposted, List.take_length]
  rfl

theorem firstFree_none {t : Sender} (h : ∀ g : Handle, t.entries[g] ≠ none) : t.firstFree = none :=
  List.find?_eq_none.mpr fun g _ hg => h g (Option.isNone_iff_eq_none.mp hg)

theorem firstFree_some {t : Sender} {h : Handle} (hh : t.entries[h] = none) (hlow : ∀ g : Handle, g < h → t.entries[g] ≠ none) :
    t.firstFree = some h := by
  unfold Sender.firstFree
  cases hf : (List.finRange 4).find? fun g => t.entries[g].isNone with
  | none => exact absurd (Option.isNone_iff_eq_none.mpr hh) (List.find?_eq_none.mp hf h (List.mem_finRange h))
  | some g =>
    obtain ⟨hg, hmin⟩ := find?_ascending (List.pairwise_lt_finRange 4) hf
    have hle : g ≤ h := hmin h (List.mem_finRange h) (Option.isNone_iff_eq_none.mpr hh)
    obtain hlt | rfl := lt_or_eq_of_le hle
    · exact absurd (Option.isNone_iff_eq_none.mp hg) (hlow g hlt)
    · rfl

/-- The byte of a handle is read as that handle. -/
theorem readIndex_handle {b : Byte} {h : Handle} (hb : b.toNat = h.val) : readIndex 4 b = some h := by
  have hlt : b.toNat < 4 := hb ▸ h.isLt
  exact (dif_pos hlt).trans (congrArg some (Fin.ext hb))

end Sys2Proof.Machine

namespace Sys2Proof

open Machine

/-- Settles O29, by the rows of the two commands' answer table. -/
theorem softSourceCommandsSetLevelAndEdge : Obligations.SoftSourceCommandsSetLevelAndEdge := by
  intro s hr
  refine ⟨fun b hb => ⟨?_, ?_⟩, fun b i hi => ⟨fun hl => ⟨?_, ?_⟩, fun hl => ⟨?_, ?_⟩⟩⟩
  · rw [exec_assertSource, execAssertSource, takeCommand_eq _ s hr, softCommand_above hb]
  · rw [exec_releaseSource, execReleaseSource, takeCommand_eq _ s hr, softCommand_above hb]
  · have hoff : ¬ s.membership.link.onLine := by obtain hl | hl := hl <;> rw [hl] <;> simp [LinkState.onLine]
    rw [exec_assertSource, execAssertSource, takeCommand_eq _ s hr, softCommand_offLine hi hoff]
  · have hoff : ¬ s.membership.link.onLine := by obtain hl | hl := hl <;> rw [hl] <;> simp [LinkState.onLine]
    rw [exec_releaseSource, execReleaseSource, takeCommand_eq _ s hr, softCommand_offLine hi hoff]
  · refine ⟨_, edgeTaken s.config.sources[i] { s.sources[i] with softActive := true }, ?_⟩
    rw [exec_assertSource, execAssertSource, takeCommand_eq _ s hr, softCommand_onLine hi hl,
      takeEdge_setSource s i _ ((takesEdges_iff _).mpr hl)]
  · rw [exec_releaseSource, execReleaseSource, takeCommand_eq _ s hr, softCommand_onLine hi hl]
    rfl

/-- Settles O30: an edge is taken exactly where the pin is activated and the station is on the line. -/
theorem qualifiedPinLevelGivesEdgeOnActivation : Obligations.QualifiedPinLevelGivesEdgeOnActivation := by
  intro p l s i hi
  refine ⟨fun before hf hb ha hl => ?_, fun hn => ?_⟩ <;> rw [exec_qualifiedLevelChange, pinSettles_eq s hi]
  · refine ⟨_, edgeTaken s.config.sources[i] { s.sources[i] with filtered := some l }, ?_⟩
    rw [if_pos ((activates_iff s i l).mpr ⟨before, hf, hb, ha⟩), takeEdge_setSource s i _ ((takesEdges_iff _).mpr hl)]
    rfl
  · by_cases hact : s.activates i l = true
    · obtain ⟨before, hf, hb, ha⟩ := (activates_iff s i l).mp hact
      have hl : ¬ s.membership.link.takesEdges = true := by
        rw [takesEdges_iff]
        obtain hn | ⟨b, hn, hna⟩ | hn | hn := hn
        · rw [hf] at hn; cases hn
        · rw [hf] at hn; exact absurd (Option.some.inj hn ▸ hna) hb
        · exact absurd ha hn
        · exact hn
      rw [if_pos hact, State.takeEdge, if_neg (by exact hl)]
      rfl
    · rw [if_neg hact]
      rfl

/-- Settles O31: each threshold by its guard. -/
theorem thresholdsEndPulseClaimAndNotice : Obligations.ThresholdsEndPulseClaimAndNotice := by
  intro s
  refine ⟨fun i => ⟨fun ⟨hd, hh, hp⟩ => ?_, fun hs hn => ?_⟩, fun k => ⟨fun n hn hl => ?_, fun hs hn => ?_⟩,
    fun h => ⟨fun e he hw hc hv => ?_, fun hs hn => ?_⟩⟩
  · rw [exec_pulseExpiry, if_pos hd, SourceRun.expirePulse, if_pos ((pulseDue_iff _).mpr ⟨hh, hp⟩)]
    rfl
  · rw [exec_pulseExpiry, expirePulse_not_due s i hn, complete_self hs]
  · have hdue : s.claims.records[k].holdDue s.holdLimit = true := by
      rw [hn]
      exact decide_eq_true hl
    rw [exec_holdLimitAbandon, if_pos hdue]
    unfold State.abandonClaim Claims.setRecord Dispatch.abandon State.record
    rfl
  · rw [exec_holdLimitAbandon, holdDue_eq_false hn, if_neg Bool.false_ne_true, complete_self hs]
  · rw [exec_noticeVoidedOut, execNoticeVoidedOut, he]
    dsimp only
    rw [if_pos ((voidDue_iff e).mpr ⟨hw, hc, hv⟩)]
    rfl
  · rw [exec_noticeVoidedOut, execNoticeVoidedOut]
    cases he : s.sender.entries[h] with
    | none => exact complete_self hs
    | some e =>
      have hnot : ¬ e.voidDue = true := by
        rw [voidDue_iff]
        rintro ⟨hw, hc, hv⟩
        obtain hn | hn | hn := hn e he
        · exact hn hw
        · rw [hc] at hn; cases hn
        · omega
      dsimp only
      rw [if_neg hnot, complete_self hs]

/-- Settles O32, by the first row of the answer table that applies. -/
theorem postNoticeFillsLowestFreeEntry : Obligations.PostNoticeFillsLowestFreeEntry := by
  intro s hr
  refine ⟨fun tag u l data => ⟨fun hoff => ?_, fun hon hbad => ?_⟩, fun tag u data hon hl => ⟨fun hfull => ?_,
    fun h hh hlow => ?_⟩⟩ <;> rw [exec_postNotice, execPostNotice, takeCommand_eq _ s hr]
  · rw [if_pos ((refusesPosts_iff _).mpr hoff)]
    rfl
  · rw [if_neg (fun h => hon ((refusesPosts_iff _).mp h)), readNotice_eq_none hbad]
    rfl
  · rw [if_neg (fun h => hon ((refusesPosts_iff _).mp h)), readNotice_bytes tag u hl, firstFree_none hfull]
    rfl
  · rw [if_neg (fun h => hon ((refusesPosts_iff _).mp h)), readNotice_bytes tag u hl, firstFree_some hh hlow]
    rfl

/-- Settles O33, by the entry's state. -/
theorem cancelNoticeByEntryState : Obligations.CancelNoticeByEntryState := by
  intro s hr
  refine ⟨fun b hb => ?_, fun b h hb => ⟨fun he => ?_, fun e he => ⟨fun hw => ?_, fun hw => ?_, fun o ho => ?_⟩⟩⟩ <;>
    rw [exec_cancelNotice, execCancelNotice, takeCommand_eq _ s hr]
  · rw [readIndex_of_le hb]
    rfl
  · rw [readIndex_handle hb]
    dsimp only
    rw [he]
    rfl
  · rw [readIndex_handle hb]
    dsimp only
    rw [he]
    dsimp only
    rw [hw]
    rfl
  · rw [readIndex_handle hb]
    dsimp only
    rw [he]
    dsimp only
    obtain hw | hw := hw <;> rw [hw] <;> rfl
  · rw [readIndex_handle hb]
    dsimp only
    rw [he]
    dsimp only
    rw [ho]
    rfl

end Sys2Proof
end

section
/-! SUPPORT. What happens at the wires outside the beats (chapter 1): the end of an interval, the frame plan and the news, start marks,
follow-on and stop, broken frames and a stuck medium. -/

namespace Sys2Proof.Machine

open Sys2Proof

/-! ## Levels -/

theorem pull_eq (b : Bool) : Level.pull b = if b then .dominant else .recessive := rfl

theorem pull_dominant_iff (b : Bool) : Level.pull b = .dominant ↔ b = true := by cases b <;> decide

theorem low_eq_true_iff (l : Level) : l.low = true ↔ l = .dominant := by cases l <;> decide

theorem level_ne_dominant {l : Level} : l ≠ .dominant ↔ l = .recessive := by cases l <;> decide

/-! ## The wire commands as completed steps -/

theorem exec_mediumQuiet (s : State) : exec .mediumQuiet s = complete s (if s.awaitsQuiet then s.becomeQuiet else s) := rfl

theorem exec_keepaliveExpired (s : State) : exec .keepaliveExpired s = execKeepaliveExpired s := rfl

theorem exec_guardPassed (s : State) : exec .guardPassed s = execGuardPassed s := rfl

theorem exec_openFrame (s : State) : exec .openFrame s = complete s (if s.mayOpen then s.startFrame true else s) := rfl

theorem exec_followOnStart (s : State) :
    exec .followOnStart s = complete s (if s.mayFollowOn then s.startFrame true else s) := rfl

theorem exec_startObserved (s : State) :
    exec .startObserved s = complete s (if s.observesStart then s.startFrame false else s) := rfl

theorem exec_followOnBeat (s : State) :
    exec .followOnBeat s = complete s (if s.atPhase .followOn then s.followOnStep else s) := rfl

theorem exec_stopObserved (s : State) : exec .stopObserved s =
    complete s (if s.line.medium = .inFrame ∧ s.line.phase = .closed then s.frameClosed else s) := rfl

theorem exec_frameBrokenByStart (s : State) : exec .frameBrokenByStart s = complete s (if s.breakable then
    if s.settleRound.breakFrame.membership.link.mayStart then s.settleRound.breakFrame.startFrame false
    else s.settleRound.breakFrame else s) := rfl

theorem exec_frameBrokenByStop (s : State) : exec .frameBrokenByStop s = complete s (if s.breakable then
    if s.settleRound.breakFrame.membership.link.mayStart then s.settleRound.breakFrame.unsync
    else s.settleRound.breakFrame else s) := rfl

/-- R19: what a mark leaves of a frame whose outcome stands. -/
def State.endedLate (s : State) : MarkKind → State
  | .start => s.startFrame false
  | .stop => s.unsync

theorem exec_lateMark (m : MarkKind) (s : State) : exec (.lateMark m) s = complete s (if s.lateInFrame then
    if s.membership.link = .leaving then s.enterDetached else s.endedLate m else s) := by
  cases m <;> rfl

theorem exec_mediumStuck (s : State) :
    exec .mediumStuck s = complete s (if s.stuckWatched then s.settleRound.stall else s) := rfl

/-- A step that changes the line controller only, with ATTN as it should be. -/
theorem complete_line {s : State} (hs : s.AttnOk) (l : LineController) :
    complete s { s with line := l } = .next { s with line := l } :=
  congrArg Host.Outcome.next (settle_eq_self hs rfl rfl fun _ => rfl)

/-! ## QUIET recognition and STALLED (R4, R66, R67) -/

theorem lineIdle_iff (l : LinkState) : l.lineIdle = true ↔ l = .detached ∨ l = .withdrawn := by cases l <;> decide

theorem mayStart_iff (l : LinkState) : l.mayStart = true ↔ l = .listening ∨ l = .proving ∨ l = .joined := by
  cases l <;> decide

theorem awaitsQuiet_iff (s : State) : s.awaitsQuiet = true ↔
    (s.membership.link ≠ .detached ∧ s.membership.link ≠ .withdrawn) ∧ (s.line.medium = .unsynced ∨ s.line.medium = .stalled) := by
  rw [State.awaitsQuiet, Bool.and_eq_true, Bool.not_eq_true', ← Bool.not_eq_true, lineIdle_iff, not_or, Bool.or_eq_true,
    beq_iff_eq, beq_iff_eq]

theorem stuckWatched_iff (s : State) : s.stuckWatched = true ↔
    (s.membership.link ≠ .detached ∧ s.membership.link ≠ .withdrawn) ∧ s.line.medium ≠ .stalled := by
  rw [State.stuckWatched, Bool.and_eq_true, Bool.not_eq_true', ← Bool.not_eq_true, lineIdle_iff, not_or, bne_iff_ne]

/-! ## Frame plan and news (R9, R12) -/

section
variable (s : State) (k : LineNo)

theorem sourceActive_iff (i : SourceNo) (c : SourceConfig) (r : SourceRun) : sourceActive i c r = true ↔
    (i.val < 12 → ∃ l, r.filtered = some l ∧ ActiveLevel c.polarity l) ∧ (12 ≤ i.val → r.softActive = true) := by
  unfold sourceActive
  by_cases hi : i.val < 12
  · rw [if_pos hi]
    cases hf : r.filtered with
    | none => simp [pinActive, hi]
    | some l =>
      rw [pinActive_iff]
      exact ⟨fun h => ⟨fun _ => ⟨l, rfl, h⟩, fun h' => absurd hi (Nat.not_lt.mpr h')⟩,
        fun ⟨h, _⟩ => by obtain ⟨l', e, h⟩ := h hi; rw [Option.some.inj e]; exact h⟩
  · rw [if_neg hi]
    exact ⟨fun h => ⟨fun h' => absurd h' hi, fun _ => h⟩, fun ⟨_, h⟩ => h (Nat.not_lt.mp hi)⟩

/-- R83, R85: a source of a line contributes by its level where it follows it, by HOLDING elsewhere. -/
theorem contributes_iff (i : SourceNo) (h : s.config.sources[i].line = some k) : s.contributes i = true ↔
    s.membership.link = .joined ∧
      (s.config.sources[i].discipline = .follow → sourceActive i s.config.sources[i] s.sources[i] = true) ∧
      (s.config.sources[i].discipline ≠ .follow → s.sources[i].holding = true) := by
  unfold State.contributes
  dsimp only
  rw [h]
  cases s.config.sources[i].discipline <;> simp

/-- The link states in which the plan is not silent. -/
theorem planNow_on (h : s.membership.link = .proving ∨ s.membership.link = .joined) :
    s.planNow.roster = .dominant ∧
    s.planNow.line[k] = Level.pull
      ((List.finRange 16).any fun i => s.config.sources[i].line == some k && s.contributes i) ∧
    (s.planNow.held[k] = .dominant ↔ ∃ n, s.claims.records[k] = .owned n) ∧
    s.planNow.mark[k] = Level.pull (s.claims.markOwed[k] || s.claims.records[k] == .releasing) := by
  unfold State.planNow
  rw [if_pos h]
  refine ⟨rfl, tableOf_get _ k, ?_, tableOf_get _ k⟩
  dsimp only
  rw [tableOf_get]
  cases s.claims.records[k] <;> simp

theorem planNow_off (h : ¬ (s.membership.link = .proving ∨ s.membership.link = .joined)) :
    s.planNow.roster = .recessive ∧ s.planNow.line[k] = .recessive ∧ s.planNow.held[k] = .recessive ∧
    s.planNow.mark[k] = .recessive := by
  unfold State.planNow
  rw [if_neg h]
  exact ⟨rfl, tableOf_get _ k, tableOf_get _ k, tableOf_get _ k⟩

theorem markDue_iff : (s.claims.markOwed[k] || s.claims.records[k] == .releasing) = true ↔
    s.claims.markOwed[k] = true ∨ s.claims.records[k] = .releasing := by
  rw [Bool.or_eq_true, beq_iff_eq]

theorem entryWaiting_iff (x : Option TransmitEntry) : entryWaiting x = true ↔ ∃ e, x = some e ∧ e.state = .waiting := by
  cases x <;> simp [entryWaiting]

/-- R107: a claim is news by the image of its line. -/
theorem claimNews_iff : s.claimNews k = true ↔
    s.membership.link = .joined ∧ s.membership.level ≠ .muted ∧ s.config.lines[k].role = .serve ∧
      s.claims.records[k] = .idle ∧ s.dispatch.serveFlags[k] = false ∧
      (∀ e ∈ s.dispatch.inService, e.source ≠ lineDelivery k) ∧ s.image.lines[k].owner = .nobody ∧
      s.image.lines[k].asserted = true ∧ s.image.lines[k].held = false := by
  rw [State.claimNews, Bool.and_eq_true, Bool.and_eq_true, mayClaim_iff, Bool.not_eq_true']
  simp only [and_assoc]

theorem news_iff : s.news = true ↔
    (s.membership.link = .proving ∨ s.membership.link = .joined) ∧
    (s.planNow ≠ s.line.lastAcceptedPlan ∨
     (∃ k : LineNo, s.claims.markOwed[k] = true ∨ s.claims.records[k] = .releasing) ∨
     s.membership.link = .proving ∨
     (s.membership.link = .joined ∧ ∃ h : Handle, entryWaiting s.sender.entries[h] = true) ∨
     ∃ k : LineNo, s.claimNews k = true) := by
  simp [State.news, or_assoc]

end

/-! ## Start marks (R5, R13, R16) -/

theorem startFrame_eq (s : State) (own : Bool) : s.startFrame own = s.inNewFrame own := by
  unfold State.startFrame State.inNewFrame
  rw [pull_eq]
  rfl

theorem mayOpen_iff (s : State) : s.mayOpen = true ↔
    (s.line.medium = .quiet ∧ (s.membership.link = .listening ∨ s.membership.link = .proving ∨ s.membership.link = .joined)) ∧
      s.line.guardTimer = .reached ∧ (s.line.keepaliveTimer = .reached ∨ s.news = true) := by
  simp [State.mayOpen, mayStart_iff, and_assoc]

theorem mayFollowOn_iff (s : State) : s.mayFollowOn = true ↔
    s.line.followOn = true ∧ s.line.medium = .quiet ∧ s.line.guardTimer = .reached ∧
      (s.membership.link = .proving ∨ s.membership.link = .joined) := by
  simp [State.mayFollowOn, and_assoc]

theorem observesStart_iff (s : State) : s.observesStart = true ↔ s.line.medium = .quiet ∧
    (s.membership.link = .listening ∨ s.membership.link = .proving ∨ s.membership.link = .joined) := by
  simp [State.observesStart, mayStart_iff]

theorem breakable_iff (s : State) : s.breakable = true ↔ s.line.medium = .inFrame ∧
    (s.line.phase = .slots ∨ s.line.phase = .enter ∨ s.line.phase = .word ∨ s.line.phase = .body ∨
      s.line.phase = .roundEnd ∨ s.line.phase = .verdict) := by
  rw [State.breakable, Bool.and_eq_true, beq_iff_eq]
  refine and_congr_right fun _ => ?_
  cases s.line.phase <;> decide

theorem lateInFrame_iff (s : State) : s.lateInFrame = true ↔
    s.line.medium = .inFrame ∧ (s.line.phase = .followOn ∨ s.line.phase = .closing) := by
  simp [State.lateInFrame]

/-! ## Claims and notices of a frame that is not accepted -/

/-- Handing back changes the contention state, the claims and the transmit list. -/
theorem handBackOffered_parts (s : State) : s.handBackOffered = { s with
    contention := { s.contention with offered := none }
    claims := s.handBackOffered.claims
    sender := s.handBackOffered.sender } := by
  rw [handBackOffered_eq]

theorem handBack_get (c : Claims) (j k : LineNo) : (c.handBack j).records[k] =
    if k = j ∧ c.records[k] = .contending then .idle else c.records[k] := by
  by_cases hc : c.records[j] = .contending
  · rw [Claims.handBack, if_pos hc, setRecord_get]
    by_cases hk : k = j
    · subst hk
      rw [if_pos rfl, if_pos ⟨rfl, hc⟩]
    · rw [if_neg hk, if_neg fun h => hk h.1]
  · have hnot : ¬ (k = j ∧ c.records[k] = .contending) := by
      rintro ⟨rfl, h⟩
      exact hc h
    rw [Claims.handBack, if_neg hc, if_neg hnot]

theorem handBack_markOwed (c : Claims) (j : LineNo) : (c.handBack j).markOwed = c.markOwed := by
  by_cases hc : c.records[j] = .contending
  · rw [Claims.handBack, if_pos hc, setRecord_markOwed]
  · rw [Claims.handBack, if_neg hc]

/-- R109: the claim records after the offered item is handed back. -/
theorem handBackOffered_claims (s : State) : s.handBackOffered.claims.markOwed = s.claims.markOwed ∧
    ∀ k : LineNo, s.handBackOffered.claims.records[k] =
      if s.contention.offered = some (.claim k) ∧ s.claims.records[k] = .contending then .idle else s.claims.records[k] := by
  rw [handBackOffered_eq]
  cases ho : s.contention.offered with
  | none => exact ⟨rfl, fun k => (if_neg (by simp)).symm⟩
  | some i =>
    cases i with
    | hello => exact ⟨rfl, fun k => (if_neg (by simp)).symm⟩
    | notice h => exact ⟨rfl, fun k => (if_neg (by simp)).symm⟩
    | claim j =>
      refine ⟨handBack_markOwed _ j, fun k => (handBack_get _ j k).trans ?_⟩
      simp only [Option.some.injEq, Item.claim.injEq, eq_comm]

/-- R109, R111: WON claims dropped, then the offered item handed back. -/
theorem claimsDropped_handBack {s : State} {c : Claims} (h : s.claims = c.dropWon) :
    ClaimsDropped s.contention.offered c s.handBackOffered.claims := by
  obtain ⟨howed, hrecords⟩ := handBackOffered_claims s
  refine ⟨by rw [howed, h, dropWon_markOwed], fun k => ?_⟩
  rw [hrecords, h, dropWon_get]
  by_cases hw : c.records[k] = .won
  · rw [if_pos hw, if_pos (Or.inl hw)]
    exact ite_self _
  · rw [if_neg hw]
    simp only [hw, false_or]

theorem claimsDropped_dropWon (c : Claims) : ClaimsDropped none c c.dropWon :=
  ⟨dropWon_markOwed c, fun k => by rw [dropWon_get]; simp⟩

/-- R127: the transmit list after the offered item is handed back. -/
theorem noticeHandedBack (s : State) : NoticeHandedBack s.contention.offered s.sender s.handBackOffered.sender := by
  refine ⟨fun h e ho he hc => ?_, fun hn => ?_⟩
  · rw [handBackOffered_eq, ho]
    simp only [Sender.handBack, he, if_pos hc]
    rfl
  · rw [handBackOffered_eq]
    cases ho : s.contention.offered with
    | none => rfl
    | some i =>
      cases i with
      | hello => rfl
      | claim k => rfl
      | notice h =>
        dsimp only
        unfold Sender.handBack
        cases he : s.sender.entries[h] with
        | none => rfl
        | some e => exact if_neg (hn h e ho he)

/-- R129, R131: an operation that settles WON entries, over the handles in the order of their rounds. -/
theorem wonEntriesSettled {op : Sender → Handle → Sender} {settled : TransmitEntry → TransmitEntry}
    (hop : Settles op .won settled) (hdone : ∀ e, (settled e).state.isDone = ((settled e).state != .waiting))
    (ws : List WinnerRecord) (t : Sender) : WonEntriesSettled settled ws t ((roundOrder ws).foldl op t) := by
  obtain ⟨hentries, hposting, hreports⟩ := hop.foldl (roundOrder ws) t
  have hsettles (h : Handle) : settlesDone .won settled t h =
      ((t.entries[h].any fun e => e.state == .won) && t.entries[h].any fun e => (settled e).state != .waiting) := by
    unfold settlesDone
    cases t.entries[h] with
    | none => rfl
    | some e => simp only [Option.any_some, hdone]
  refine ⟨fun h => ?_, ?_, ?_⟩
  · rw [hentries, if_pos (mem_roundOrder ws h)]
  · rw [hposting]
    refine List.filter_congr fun h _ => ?_
    rw [hsettles, decide_eq_true (mem_roundOrder ws h), Bool.true_and]
  · rw [hreports]
    exact congrArg (t.reports ++ ·) (congrArg List.eraseDups (List.filter_congr fun h _ => hsettles h))

theorem voided_settled (ws : List WinnerRecord) (t : Sender) :
    WonEntriesSettled TransmitEntry.afterVoid ws t ((roundOrder ws).foldl Sender.settleVoided t) :=
  wonEntriesSettled settleVoided_settles (fun e => by dsimp only; split_ifs <;> rfl) ws t

theorem stuck_settled (ws : List WinnerRecord) (t : Sender) :
    WonEntriesSettled TransmitEntry.afterStuck ws t ((roundOrder ws).foldl Sender.settleStuck t) :=
  wonEntriesSettled settleStuck_settles (fun e => by dsimp only; split_ifs <;> rfl) ws t

/-- R48, R50, R51: a change of the tally is one update of the membership unit. -/
theorem setTally_tallied (s : State) (t : Nat) : s.setTally t = { s with membership := s.tallied t } := by
  rw [setTally_eq]
  unfold State.tallied
  dsimp only
  by_cases h : levelAfter s.membership.level t = s.membership.level
  · rw [if_pos h, if_pos h]
    rfl
  · rw [if_neg h, if_neg h]
    rfl

/-! ## Broken frames (R17, R18) -/

/-- R17, R18: the wires released at the mark, with the mark as an own finding. -/
def State.brokenOff (s : State) : State :=
  { s with
    errors := { s.errors with formFault := true }
    line := { s.line with phase := .noFrame, followOn := false, sld := .recessive, slb := .recessive } }

/-- R17, R18: the frame broken and counted, its claims and notices dropped, the round in progress cut short. -/
def State.broken (s : State) : State :=
  (s.brokenOff.setTally (tallyRaised s.membership.tally 8)).dropFrame.handBackOffered

theorem breakFrame_eq (s : State) : s.breakFrame =
    if s.broken.membership.link = .leaving then s.broken.enterDetached else s.broken.withdrawIfDue := rfl

/-- R17, R18: the frame broken and counted, its claims and notices dropped. -/
def State.brokenDropped (s : State) : State :=
  State.dropFrame { s.brokenOff with membership := s.tallied (min 255 (s.membership.tally + 8)) }

theorem broken_brokenDropped (s : State) : s.broken = s.brokenDropped.handBackOffered := by
  unfold State.broken
  rw [setTally_tallied]
  rfl

theorem broken_eq (s : State) : ∃ (claims : Claims) (half sender : Sender),
    ClaimsDropped s.contention.offered s.claims claims ∧
    WonEntriesSettled TransmitEntry.afterVoid s.contention.winners s.sender half ∧
    NoticeHandedBack s.contention.offered half sender ∧
    s.broken = { s with
      errors := { s.errors with formFault := true }
      line := { s.line with phase := .noFrame, followOn := false, sld := .recessive, slb := .recessive }
      membership := s.tallied (min 255 (s.membership.tally + 8))
      contention := { s.contention with offered := none }
      claims, sender } := by
  rw [broken_brokenDropped]
  exact ⟨_, _, _, claimsDropped_handBack (s := s.brokenDropped) rfl, voided_settled _ _, noticeHandedBack s.brokenDropped,
    handBackOffered_parts s.brokenDropped⟩

theorem enterDetached_link (s : State) : s.enterDetached.membership.link = .detached := by rw [enterDetached_membership]

theorem enterWithdrawn_link (s : State) : s.enterWithdrawn.membership.link = .withdrawn := by rw [enterWithdrawn_membership]

/-! ## A stuck medium (R20, R66) -/

/-- R20: the wires released at a stuck medium. -/
def State.released (s : State) : State :=
  { s with line := { s.line with
    medium := .stalled, phase := .noFrame, followOn := false, sld := .recessive, slb := .recessive
    quietTimer := .running, guardTimer := .stopped, stuckTimer := .stopped } }

/-- R20: the frame given up. -/
def State.givenUp (s : State) : State := s.dropStuck.handBackOffered.released

theorem givenUp_eq (s : State) : ∃ (claims : Claims) (half sender : Sender),
    ClaimsDropped s.contention.offered s.claims claims ∧
    WonEntriesSettled TransmitEntry.afterStuck s.contention.winners s.sender half ∧
    NoticeHandedBack s.contention.offered half sender ∧
    s.givenUp = { s with
      line := { s.line with
        medium := .stalled, phase := .noFrame, followOn := false, sld := .recessive, slb := .recessive
        quietTimer := .running, guardTimer := .stopped, stuckTimer := .stopped }
      contention := { s.contention with offered := none }
      claims, sender } := by
  unfold State.givenUp
  exact ⟨_, _, _, claimsDropped_handBack (s := s.dropStuck) (by simp only [State.dropStuck]), stuck_settled _ _, noticeHandedBack s.dropStuck,
    (congrArg State.released (handBackOffered_parts s.dropStuck)).trans (by simp only [State.released, State.dropStuck])⟩

theorem stall_leaving {s : State} (h : s.givenUp.membership.link = .leaving) : s.stall = s.givenUp.enterDetached := by
  unfold State.stall
  change (match s.givenUp.membership.link.remember with
    | some r => _
    | none => _) = _
  rw [h]
  exact if_pos h

theorem stall_remembered {s : State} {r : Remembered} (h : s.givenUp.membership.link.remember = some r) :
    s.stall = { s.givenUp with membership := { s.givenUp.membership with
      link := .stalled, remembered := some r
      events := recordedAfter s.givenUp.membership.events s.givenUp.image.frameNumber [.linkChanged .stalled] } } := by
  unfold State.stall
  change (match s.givenUp.membership.link.remember with
    | some r => _
    | none => _) = _
  rw [h]
  rfl

end Sys2Proof.Machine

namespace Sys2Proof

open Machine

/-- Settles O34: each step by its guard. -/
theorem quietAndTimerEndsAtTheLine : Obligations.QuietAndTimerEndsAtTheLine := by
  intro s
  refine ⟨fun hd hw hm => ⟨fun hst => ?_, fun r hst hr => ?_⟩, fun hs hn => ?_, fun hs => ⟨?_, ?_⟩⟩
  · rw [exec_mediumQuiet, if_pos ((awaitsQuiet_iff s).mpr ⟨⟨hd, hw⟩, hm⟩), State.becomeQuiet, if_neg hst]
    rfl
  · rw [exec_mediumQuiet, if_pos ((awaitsQuiet_iff s).mpr ⟨⟨hd, hw⟩, hm⟩), State.becomeQuiet, if_pos hst, State.stallReturn]
    dsimp only
    rw [hr]
    cases r <;> rfl
  · have hnot : ¬ s.awaitsQuiet = true := by
      rw [awaitsQuiet_iff]
      rintro ⟨⟨hd, hw⟩, hm⟩
      obtain h | h | h | h := hn
      · exact hd h
      · exact hw h
      · rw [h] at hm; simp at hm
      · rw [h] at hm; simp at hm
    rw [exec_mediumQuiet, if_neg hnot, complete_self hs]
  · rw [exec_keepaliveExpired, execKeepaliveExpired]
    split
    · exact complete_line hs _
    · exact complete_self hs
  · rw [exec_guardPassed, execGuardPassed]
    split
    · exact complete_line hs _
    · exact complete_self hs

/-- Settles O35: the plan slot by slot, the news reason by reason. -/
theorem framePlanAndNewsFollowTheBlocks : Obligations.FramePlanAndNewsFollowTheBlocks := by
  refine ⟨fun s => ⟨?_, fun k => ⟨?_, ?_, ?_⟩⟩, fun s => ?_⟩
  · by_cases hon : s.membership.link = .proving ∨ s.membership.link = .joined
    · exact iff_of_true (planNow_on s 0 hon).1 hon
    · exact iff_of_false (by rw [(planNow_off s 0 hon).1]; decide) hon
  · by_cases hon : s.membership.link = .proving ∨ s.membership.link = .joined
    · obtain ⟨-, hline, -, -⟩ := planNow_on s k hon
      rw [hline, pull_dominant_iff, List.any_eq_true]
      constructor
      · rintro ⟨i, -, hi⟩
        obtain ⟨hl, hc⟩ := Bool.and_eq_true_iff.mp hi
        have hl := beq_iff_eq.mp hl
        obtain ⟨hj, hf, hh⟩ := (contributes_iff s k i hl).mp hc
        exact ⟨hj, i, hl, fun hd => (sourceActive_iff i _ _).mp (hf hd), hh⟩
      · rintro ⟨hj, i, hl, hf, hh⟩
        exact ⟨i, List.mem_finRange i, Bool.and_eq_true_iff.mpr ⟨beq_iff_eq.mpr hl,
          (contributes_iff s k i hl).mpr ⟨hj, fun hd => (sourceActive_iff i _ _).mpr (hf hd), hh⟩⟩⟩
    · obtain ⟨-, hline, -, -⟩ := planNow_off s k hon
      exact iff_of_false (by rw [hline]; decide) fun h => hon (.inr h.1)
  · by_cases hon : s.membership.link = .proving ∨ s.membership.link = .joined
    · obtain ⟨-, -, hheld, -⟩ := planNow_on s k hon
      exact hheld.trans (and_iff_right hon).symm
    · obtain ⟨-, -, hheld, -⟩ := planNow_off s k hon
      exact iff_of_false (by rw [hheld]; decide) fun h => hon h.1
  · by_cases hon : s.membership.link = .proving ∨ s.membership.link = .joined
    · obtain ⟨-, -, -, hmark⟩ := planNow_on s k hon
      rw [hmark, pull_dominant_iff, markDue_iff]
      exact (and_iff_right hon).symm
    · obtain ⟨-, -, -, hmark⟩ := planNow_off s k hon
      exact iff_of_false (by rw [hmark]; decide) fun h => hon h.1
  · rw [news_iff]
    simp only [claimNews_iff, entryWaiting_iff]

/-- Settles O36: each start by its guard. -/
theorem startMarkMakesAParticipant : Obligations.StartMarkMakesAParticipant := by
  intro s
  refine ⟨fun h => ?_, fun h => ?_, fun h => ?_, fun hs => ⟨fun h => ?_, fun h => ?_, fun h => ?_⟩⟩
  · rw [exec_openFrame, if_pos ((mayOpen_iff s).mpr h), startFrame_eq]
    rfl
  · rw [exec_followOnStart, if_pos ((mayFollowOn_iff s).mpr h), startFrame_eq]
    rfl
  · rw [exec_startObserved, if_pos ((observesStart_iff s).mpr h), startFrame_eq]
    rfl
  · rw [exec_openFrame, if_neg (mt (mayOpen_iff s).mp h), complete_self hs]
  · rw [exec_followOnStart, if_neg (mt (mayFollowOn_iff s).mp h), complete_self hs]
  · rw [exec_startObserved, if_neg (mt (observesStart_iff s).mp h), complete_self hs]

/-- Settles O37: the two steps that close a frame, by their guards. -/
theorem followOnAndStopCloseTheFrame : Obligations.FollowOnAndStopCloseTheFrame := by
  refine ⟨fun s => ⟨fun hm hp => ?_, fun hs hn => ?_⟩, fun s => ⟨fun hm hp => ⟨fun hl => ?_, fun hl => ?_⟩, fun hs hn => ?_⟩⟩
  · rw [exec_followOnBeat, if_pos ((atPhase_iff s _).mpr ⟨hm, hp⟩), State.followOnStep]
    by_cases hb : s.line.slb = .dominant
    · simp only [if_pos hb]
      rfl
    · simp only [if_neg hb]
      rfl
  · have hnot : ¬ s.atPhase .followOn = true := by
      rw [atPhase_iff, not_and_or]
      exact hn
    rw [exec_followOnBeat, if_neg hnot, complete_self hs]
  · rw [exec_stopObserved, if_pos ⟨hm, hp⟩, State.frameClosed, if_neg hl]
    rfl
  · rw [exec_stopObserved, if_pos ⟨hm, hp⟩, State.frameClosed, if_pos hl]
    rfl
  · rw [exec_stopObserved, if_neg (by rw [not_and_or]; exact hn), complete_self hs]

/-- Settles O38: the broken frame, then the link state it leaves. -/
theorem markInFrameBreaksIt : Obligations.MarkInFrameBreaksIt := by
  intro s hm hp
  obtain ⟨claims, half, sender, hclaims, hhalf, hsender, hbroken⟩ := broken_eq s.settleRound
  refine ⟨claims, half, sender, hclaims, hhalf, hsender, ?_⟩
  dsimp only
  rw [exec_frameBrokenByStart, exec_frameBrokenByStop, if_pos ((breakable_iff s).mpr ⟨hm, hp⟩),
    if_pos ((breakable_iff s).mpr ⟨hm, hp⟩), breakFrame_eq, ← hbroken]
  have hlink : s.settleRound.broken.membership.link = s.settleRound.membership.link := by rw [hbroken]; rfl
  have htally : s.settleRound.broken.membership.tally = min 255 (s.settleRound.membership.tally + 8) := by rw [hbroken]; rfl
  have hdetached : s.settleRound.broken.enterDetached.membership.link.mayStart ≠ true := by
    rw [enterDetached_link]
    decide
  have hwithdrawn : s.settleRound.broken.enterWithdrawn.membership.link.mayStart ≠ true := by
    rw [enterWithdrawn_link]
    decide
  refine ⟨fun hl => ?_, fun hl => ?_⟩
  · rw [if_pos (hlink.trans hl), if_neg hdetached, if_neg hdetached]
    exact ⟨rfl, rfl⟩
  · have hnl : s.settleRound.broken.membership.link ≠ .leaving := by
      rw [hlink]
      obtain h | h | h := hl <;> rw [h] <;> decide
    have hstart : s.settleRound.broken.membership.link.mayStart = true := by
      rw [hlink]
      exact (mayStart_iff _).mpr hl
    have hdue : s.settleRound.broken.withdrawalDue = true ↔ 247 ≤ s.settleRound.membership.tally := by
      rw [withdrawalDue_iff, htally, and_iff_left (mayStart_participates hstart).1]
      omega
    rw [if_neg hnl]
    refine ⟨fun ht => ?_, fun ht => ?_⟩
    · rw [State.withdrawIfDue, if_pos (hdue.mpr ht), if_neg hwithdrawn, if_neg hwithdrawn]
      exact ⟨rfl, rfl⟩
    · rw [State.withdrawIfDue, if_neg (fun h => absurd (hdue.mp h) (Nat.not_le.mpr ht)), if_pos hstart, if_pos hstart,
        startFrame_eq]
      refine ⟨rfl, ?_⟩
      rw [hbroken]
      rfl

/-- Settles O40: by the phase, the link state and the mark. -/
theorem lateMarkEndsFrameWithOutcomeStanding : Obligations.LateMarkEndsFrameWithOutcomeStanding := by
  intro m s
  refine ⟨fun hm hp => ⟨fun hl => ?_, fun hl => ⟨?_, ?_⟩⟩, fun hs hn => ?_⟩
  · rw [exec_lateMark, if_pos ((lateInFrame_iff s).mpr ⟨hm, hp⟩), if_pos hl]
    rfl
  · rw [exec_lateMark, if_pos ((lateInFrame_iff s).mpr ⟨hm, hp⟩), if_neg hl, State.endedLate, startFrame_eq]
    rfl
  · rw [exec_lateMark, if_pos ((lateInFrame_iff s).mpr ⟨hm, hp⟩), if_neg hl]
    rfl
  · have hnot : ¬ s.lateInFrame = true := by
      rw [lateInFrame_iff, not_and_or, not_or]
      exact hn
    rw [exec_lateMark, if_neg hnot, complete_self hs]

/-- Settles O41: the frame given up, then the link state it leaves. -/
theorem stuckMediumStallsTheStation : Obligations.StuckMediumStallsTheStation := by
  intro s
  refine ⟨fun hd hw hst hm => ?_, fun hs hn => ?_⟩
  · obtain ⟨claims, half, sender, hclaims, hhalf, hsender, hgiven⟩ := givenUp_eq s.settleRound
    refine ⟨claims, half, sender, hclaims, hhalf, hsender, ?_⟩
    dsimp only
    have hmember : s.settleRound.givenUp.membership = s.settleRound.membership := by rw [hgiven]
    have hlink : s.settleRound.givenUp.membership.link = s.membership.link := by rw [hmember, settleRound_membership]
    rw [exec_mediumStuck, if_pos ((stuckWatched_iff s).mpr ⟨⟨hd, hw⟩, hm⟩), ← hgiven]
    refine ⟨fun hl => ?_, fun was hl => ?_⟩
    · rw [stall_leaving (hlink.trans hl)]
      rfl
    · have hwas : s.settleRound.givenUp.membership.link.remember = some was := by
        rw [hlink, hl]
        cases was <;> rfl
      rw [stall_remembered hwas, hgiven]
      rfl
  · have hnot : ¬ s.stuckWatched = true := by
      rw [stuckWatched_iff]
      rintro ⟨⟨hd, hw⟩, hm⟩
      obtain h | h | h := hn
      · exact hd h
      · exact hw h
      · exact hm h
    rw [exec_mediumStuck, if_neg hnot, complete_self hs]

end Sys2Proof
end

section
/-! SUPPORT. Contention words, bodies and checks as runs of beats, and the candidates of an enter beat (chapter 2). -/

namespace Sys2Proof.Machine

open Sys2Proof

/-! ## Runs of beats (R25) -/

theorem bit_ofBit (b : Bool) : (Level.ofBit b).bit = b := by cases b <;> rfl

/-- The beats of places `a` to `a + n` of a number, most significant first. -/
def beatsAt {w : Nat} (x : BitVec w) (a n : Nat) : List Level := (List.range n).map fun i => Level.ofBit (x.getMsbD (a + i))

theorem beatsValue_append (beats : List Level) (b : Level) : beatsValue (beats ++ [b]) = 2 * beatsValue beats + b.bit.toNat := by
  unfold beatsValue
  rw [List.foldl_append]
  rfl

theorem beatsAt_zero {w : Nat} (x : BitVec w) (n : Nat) :
    beatsAt x 0 n = (List.range n).map fun i => Level.ofBit (x.getMsbD i) :=
  List.map_congr_left fun i _ => by rw [Nat.zero_add]

/-- A run of beats is read place by place. -/
theorem run_segment (f : Nat → Level) {a b n : Nat} (h : a + b ≤ n) :
    (((List.range n).map f).drop a).take b = (List.range b).map fun i => f (a + i) := by
  refine List.ext_getElem (by simp; omega) fun i h1 h2 => ?_
  simp

theorem beatsAt_succ {w : Nat} (x : BitVec w) (a n : Nat) :
    beatsAt x a (n + 1) = beatsAt x a n ++ [Level.ofBit (x.getMsbD (a + n))] := by
  unfold beatsAt
  rw [List.range_succ, List.map_append]
  rfl

/-- The first `n` places of a number are its highest bits. -/
theorem beatsValue_high {w : Nat} (x : BitVec w) {n : Nat} (h : n ≤ w) : beatsValue (beatsAt x 0 n) = x.toNat / 2 ^ (w - n) := by
  induction n with
  | zero =>
    rw [Nat.sub_zero, Nat.div_eq_of_lt x.isLt]
    rfl
  | succ n ih =>
    have hbit : (x.getMsbD n).toNat = x.toNat / 2 ^ (w - (n + 1)) % 2 := by
      rw [BitVec.getMsbD_eq_getLsbD, decide_eq_true (by omega), Bool.true_and, ← BitVec.testBit_toNat,
        Nat.testBit_eq_decide_div_mod_eq, show w - 1 - n = w - (n + 1) from by omega]
      obtain h | h := Nat.mod_two_eq_zero_or_one (x.toNat / 2 ^ (w - (n + 1))) <;> simp [h]
    have hhalf : x.toNat / 2 ^ (w - n) = x.toNat / 2 ^ (w - (n + 1)) / 2 := by
      rw [Nat.div_div_eq_div_mul, ← Nat.pow_succ, show (w - (n + 1)).succ = w - n from by omega]
    rw [beatsAt_succ, beatsValue_append, bit_ofBit, ih (by omega), Nat.zero_add, hbit, hhalf]
    omega

/-- A number read back from all its beats. -/
theorem beatsValue_all {w : Nat} (x : BitVec w) : beatsValue (beatsAt x 0 w) = x.toNat := by
  rw [beatsValue_high x (Nat.le_refl w), Nat.sub_self, Nat.pow_zero, Nat.div_one]

/-- A field of a number read back from its beats. -/
theorem beatsAt_field {v w : Nat} {x : BitVec v} {y : BitVec w} {a : Nat} (h : ∀ i, i < w → x.getMsbD (a + i) = y.getMsbD i) :
    beatsAt x a w = beatsAt y 0 w :=
  List.map_congr_left fun i hi => by rw [h i (List.mem_range.mp hi), Nat.zero_add]

/-! ## Contention words (R25) -/

theorem kindOfCode_code (k : ItemKind) : kindOfCode k.code = k := by cases k <;> decide

section
variable (u : Urgency) (k : ItemKind) (key : Tag) (n : StationNo)

theorem contentionWord_urgency (i : Nat) (h : i < 4) : (contentionWord u k key n).getMsbD (0 + i) = u.getMsbD i := by
  unfold contentionWord
  rw [BitVec.getMsbD_append, if_neg (by omega), BitVec.getMsbD_append, if_neg (by omega), BitVec.getMsbD_append,
    if_neg (by omega), Nat.zero_add]

theorem contentionWord_kind (i : Nat) (h : i < 2) : (contentionWord u k key n).getMsbD (4 + i) = k.code.getMsbD i := by
  unfold contentionWord
  rw [BitVec.getMsbD_append, if_neg (by omega), BitVec.getMsbD_append, if_neg (by omega), BitVec.getMsbD_append,
    if_pos (by omega), Nat.add_sub_cancel_left]

theorem contentionWord_key (i : Nat) (h : i < 11) : (contentionWord u k key n).getMsbD (6 + i) = key.getMsbD i := by
  unfold contentionWord
  rw [BitVec.getMsbD_append, if_neg (by omega), BitVec.getMsbD_append, if_pos (by omega), Nat.add_sub_cancel_left]

theorem contentionWord_station (i : Nat) :
    (contentionWord u k key n).getMsbD (17 + i) = (BitVec.ofNat 5 n.val).getMsbD i := by
  unfold contentionWord
  rw [BitVec.getMsbD_append, if_pos (by omega), Nat.add_sub_cancel_left]

/-- The value of a field of a word. -/
theorem word_field {w : Nat} {y : BitVec w} {a : Nat} (ha : a + w ≤ 22)
    (h : ∀ i, i < w → (contentionWord u k key n).getMsbD (a + i) = y.getMsbD i) :
    BitVec.ofNat w (beatsValue ((((List.range 22).map fun i =>
      Level.ofBit ((contentionWord u k key n).getMsbD i)).drop a).take w)) = y := by
  rw [run_segment _ ha]
  change BitVec.ofNat w (beatsValue (beatsAt (contentionWord u k key n) a w)) = y
  rw [beatsAt_field h, beatsValue_all, BitVec.ofNat_toNat, BitVec.setWidth_eq]

end

theorem append_toNat {m n : Nat} (x : BitVec m) (y : BitVec n) : (x ++ y).toNat = x.toNat * 2 ^ n + y.toNat := by
  rw [BitVec.toNat_append, ← Nat.shiftLeft_add_eq_or_of_lt y.isLt, Nat.shiftLeft_eq]

/-- R25: the value of a word. -/
theorem contentionWord_toNat (u : Urgency) (k : ItemKind) (key : Tag) (n : StationNo) : (contentionWord u k key n).toNat =
    u.toNat * 2 ^ 18 + k.code.toNat * 2 ^ 16 + key.toNat * 2 ^ 5 + n.val := by
  unfold contentionWord
  rw [append_toNat, append_toNat, append_toNat, BitVec.toNat_ofNat, Nat.mod_eq_of_lt n.isLt]
  omega

/-! ## Bodies (R29, R32) -/

/-- The beat of a run of bytes at place `i`. -/
def dataBeat (data : List Byte) (i : Nat) : Level := Level.ofBit ((data.getD (i / 8) 0).getMsbD (i % 8))

theorem dataBeat_head (b : Byte) (data : List Byte) {i : Nat} (h : i < 8) : dataBeat (b :: data) i = Level.ofBit (b.getMsbD i) := by
  rw [dataBeat, Nat.div_eq_of_lt h, Nat.mod_eq_of_lt h]
  rfl

theorem dataBeat_tail (b : Byte) (data : List Byte) (i : Nat) : dataBeat (b :: data) (8 + i) = dataBeat data i := by
  rw [dataBeat, dataBeat, Nat.add_mod_left, Nat.add_div_left i (by decide)]
  rfl

/-- R25, R34: bytes read back from their beats. -/
theorem beatsBytes_dataBeats (data : List Byte) :
    beatsBytes data.length ((List.range (8 * data.length)).map (dataBeat data)) = data := by
  induction data with
  | nil => rfl
  | cons b data ih =>
    have hlen : 8 * (b :: data).length = 8 + 8 * data.length := by rw [List.length_cons]; omega
    have hhead : (((List.range (8 * (b :: data).length)).map (dataBeat (b :: data))).take 8) = beatsAt b 0 8 := by
      have h := run_segment (dataBeat (b :: data)) (a := 0) (b := 8) (n := 8 * (b :: data).length) (by omega)
      rw [List.drop_zero] at h
      rw [h]
      exact List.map_congr_left fun i hi => by
        rw [Nat.zero_add, dataBeat_head b data (List.mem_range.mp hi)]
    have htail : (((List.range (8 * (b :: data).length)).map (dataBeat (b :: data))).drop 8) =
        (List.range (8 * data.length)).map (dataBeat data) := by
      refine List.ext_getElem (by simp; omega) fun i h1 h2 => ?_
      simp [dataBeat_tail]
    show beatsBytes (data.length + 1) _ = _
    rw [beatsBytes, hhead, htail, ih, beatsValue_all, BitVec.ofNat_toNat, BitVec.setWidth_eq]

section
variable {s : State} {h : Handle} {e : TransmitEntry}

theorem ownData_notice (ho : s.contention.offered = some (.notice h)) (he : s.sender.entries[h] = some e) :
    s.ownData = e.data := by
  rw [State.ownData, ho]
  dsimp only
  rw [he]

variable (s)

theorem ownBodyBeat_length {i : Nat} (hi : i < 4) :
    s.ownBodyBeat i = Level.ofBit ((BitVec.ofNat 4 s.ownData.length).getMsbD i) := if_pos hi

theorem ownBodyBeat_data {i : Nat} (hi : i < 8 * s.ownData.length) : s.ownBodyBeat (4 + i) = dataBeat s.ownData i := by
  rw [State.ownBodyBeat, if_neg (by omega), if_pos (by omega), Nat.add_sub_cancel_left]
  rfl

theorem ownBodyBeat_check (i : Nat) :
    s.ownBodyBeat (4 + 8 * s.ownData.length + i) = Level.ofBit (s.contention.check.getMsbD i) := by
  rw [State.ownBodyBeat, if_neg (by omega), if_neg (by omega), show 4 + 8 * s.ownData.length + i - 4 - 8 * s.ownData.length = i from by omega]

end

/-! ## Candidates (R24, R26) -/

/-- R26: the item offered is the first of the lowest. -/
theorem lowestItem_split {s : State} {l : List Item} {i : Item} (h : s.lowestItem l = some i) :
    ∃ before after, l = before ++ i :: after ∧ (∀ j ∈ before, s.itemWord i < s.itemWord j) ∧
      ∀ j ∈ after, s.itemWord i ≤ s.itemWord j := by
  induction l generalizing i with
  | nil => cases h
  | cons j l ih =>
    unfold State.lowestItem at h
    split at h
    · next hl =>
      obtain rfl := Option.some.inj h
      cases l with
      | nil => exact ⟨[], [], rfl, by simp, by simp⟩
      | cons k l =>
        unfold State.lowestItem at hl
        split at hl
        · cases hl
        · split at hl <;> cases hl
    · next k hk =>
      obtain ⟨before, after, rfl, hbefore, hafter⟩ := ih hk
      split at h
      · next hle =>
        obtain rfl := Option.some.inj h
        refine ⟨[], before ++ k :: after, rfl, by simp, fun g hg => ?_⟩
        rw [List.mem_append, List.mem_cons] at hg
        obtain hg | rfl | hg := hg
        · exact BitVec.le_trans hle (BitVec.le_of_lt (hbefore g hg))
        · exact hle
        · exact BitVec.le_trans hle (hafter g hg)
      · next hle =>
        obtain rfl := Option.some.inj h
        refine ⟨j :: before, after, rfl, fun g hg => ?_, hafter⟩
        obtain rfl | hg := List.mem_cons.mp hg
        · exact BitVec.not_le.mp hle
        · exact hbefore g hg

theorem lowestItem_none_iff (s : State) (l : List Item) : s.lowestItem l = none ↔ l = [] := by
  cases l with
  | nil => exact iff_of_true rfl rfl
  | cons i l =>
    refine iff_of_false (fun h => ?_) (List.cons_ne_nil i l)
    unfold State.lowestItem at h
    split at h
    · cases h
    · split at h <;> cases h

theorem lowestItem_le {s : State} {l : List Item} {i j : Item} (h : s.lowestItem l = some i) (hj : j ∈ l) :
    s.itemWord i ≤ s.itemWord j := by
  obtain ⟨before, after, rfl, hbefore, hafter⟩ := lowestItem_split h
  rw [List.mem_append, List.mem_cons] at hj
  obtain hj | rfl | hj := hj
  · exact BitVec.le_of_lt (hbefore j hj)
  · exact BitVec.le_refl _
  · exact hafter j hj

section
variable (s : State)

theorem claims_iff (w : WinnerRecord) (k : LineNo) : w.claims k = true ↔ w.kind = .claim ∧ w.key.toNat = k.val := by
  simp [WinnerRecord.claims]

/-- R106: a line claimable at an enter beat. -/
theorem claimable_iff (k : LineNo) : s.claimable k = true ↔ s.mayClaim k = true ∧
    s.line.samples.line[k] = .dominant ∧ s.line.samples.held[k] = .recessive ∧
      ∀ w ∈ s.contention.winners, w.kind = .claim → w.key.toNat ≠ k.val := by
  rw [State.claimable, Bool.and_eq_true, Bool.and_eq_true, Bool.and_eq_true, low_eq_true_iff, Bool.not_eq_true',
    ← Bool.not_eq_true, low_eq_true_iff, ← ne_eq, level_ne_dominant, Bool.not_eq_true', ← Bool.not_eq_true, List.any_eq_true,
    and_assoc, and_assoc]
  simp only [claims_iff, not_exists, not_and]

theorem candidates_proving (hm : s.membership.level ≠ .muted) (hl : s.membership.link = .proving) :
    s.candidates = if s.helloOwed then [.hello] else [] := by
  rw [State.candidates, if_neg hm, hl]

theorem candidates_joined (hm : s.membership.level ≠ .muted) (hl : s.membership.link = .joined) :
    s.candidates = ((List.finRange 48).filter s.claimable).map .claim
      ++ (s.sender.posting.filter fun h => entryWaiting s.sender.entries[h]).map .notice := by
  rw [State.candidates, if_neg hm, hl]

theorem candidate_hello_iff : Item.hello ∈ s.candidates ↔ s.membership.level ≠ .muted ∧ s.membership.link = .proving ∧
    ∀ w ∈ s.contention.winners, w.own ≠ some .hello := by
  have howed : s.helloOwed = true ↔ s.membership.link = .proving ∧ ∀ w ∈ s.contention.winners, w.own ≠ some .hello := by
    simp [State.helloOwed]
  by_cases hm : s.membership.level = .muted
  · simp [State.candidates, hm]
  · cases hl : s.membership.link with
    | proving =>
      rw [candidates_proving s hm hl]
      by_cases ho : s.helloOwed = true
      · rw [if_pos ho]
        exact iff_of_true (List.mem_singleton.mpr rfl) ⟨hm, rfl, (howed.mp ho).2⟩
      · rw [if_neg ho]
        exact iff_of_false List.not_mem_nil fun h => ho (howed.mpr ⟨hl, h.2.2⟩)
    | joined => rw [candidates_joined s hm hl]; simp
    | detached | listening | leaving | stalled | withdrawn => simp [State.candidates, hl]

theorem candidate_claim_iff (k : LineNo) : Item.claim k ∈ s.candidates ↔
    s.membership.link = .joined ∧ s.membership.level ≠ .muted ∧ s.claimable k = true := by
  refine ⟨candidate_claimable, fun ⟨hl, hm, hk⟩ => ?_⟩
  rw [candidates_joined s hm hl, List.mem_append]
  exact .inl (List.mem_map.mpr ⟨k, List.mem_filter.mpr ⟨List.mem_finRange k, hk⟩, rfl⟩)

theorem candidate_notice_iff (h : Handle) : Item.notice h ∈ s.candidates ↔ s.membership.link = .joined ∧
    s.membership.level ≠ .muted ∧ h ∈ s.sender.posting ∧ entryWaiting s.sender.entries[h] = true := by
  refine ⟨candidate_waiting, fun ⟨hl, hm, hp, hw⟩ => ?_⟩
  rw [candidates_joined s hm hl, List.mem_append]
  exact .inr (List.mem_map.mpr ⟨h, List.mem_filter.mpr ⟨hp, hw⟩, rfl⟩)

variable {s}

/-- The handle of a notice among the items. -/
def Item.notice? : Item → Option Handle
  | .notice h => some h
  | .hello => none
  | .claim _ => none

theorem mem_notices {l : List Item} {h : Handle} (hm : h ∈ l.filterMap Item.notice?) : Item.notice h ∈ l := by
  obtain ⟨i, hi, hh⟩ := List.mem_filterMap.mp hm
  cases i with
  | hello => cases hh
  | claim k => cases hh
  | notice g => rw [← Option.some.inj hh]; exact hi

theorem notices_joined (hm : s.membership.level ≠ .muted) (hl : s.membership.link = .joined) :
    s.candidates.filterMap Item.notice? = s.sender.posting.filter fun h => entryWaiting s.sender.entries[h] := by
  have hclaims : Item.notice? ∘ Item.claim = fun _ => none := rfl
  have hnotices : Item.notice? ∘ Item.notice = some := rfl
  rw [candidates_joined s hm hl, List.filterMap_append, List.filterMap_map, List.filterMap_map, hclaims, hnotices,
    List.filterMap_some, List.filterMap_eq_nil_iff.mpr fun _ _ => rfl, List.nil_append]

/-- R26: of notices with equal words the one posted first is offered. -/
theorem lowestItem_posted_first {g h : Handle} (hi : s.lowestItem s.candidates = some (.notice h))
    (hg : Item.notice g ∈ s.candidates) (hw : s.itemWord (.notice g) = s.itemWord (.notice h)) :
    s.sender.posting.idxOf h ≤ s.sender.posting.idxOf g := by
  obtain ⟨hl, hm, -, -⟩ := candidate_waiting (lowestItem_mem hi)
  obtain ⟨-, -, -, hgw⟩ := candidate_waiting hg
  obtain ⟨before, after, hsplit, hbefore, -⟩ := lowestItem_split hi
  have hnotices := congrArg (List.filterMap Item.notice?) hsplit
  rw [notices_joined hm hl, List.filterMap_append] at hnotices
  obtain ⟨earlier, rest, hposting, hearlier, hrest⟩ := List.filter_eq_append_iff.mp hnotices
  obtain ⟨skipped, later, rfl, hskipped, -⟩ := List.filter_eq_cons_iff.mp hrest
  have hg_earlier : g ∉ earlier := by
    intro hge
    have hgb : Item.notice g ∈ before := mem_notices (hearlier ▸ List.mem_filter.mpr ⟨hge, hgw⟩)
    have hlt := hbefore _ hgb
    rw [hw] at hlt
    exact BitVec.lt_irrefl _ hlt
  have hg_skipped : g ∉ skipped := fun hgs => hskipped g hgs hgw
  have hfirst : s.sender.posting = (earlier ++ skipped) ++ h :: later := by rw [hposting, List.append_assoc]
  have hle : s.sender.posting.idxOf h ≤ (earlier ++ skipped).length := by
    rw [hfirst, List.idxOf_append]
    split
    · next hmem => exact (List.idxOf_lt_length_iff.mpr hmem).le
    · rw [List.idxOf_cons_self, Nat.zero_add]
  have hge : (earlier ++ skipped).length ≤ s.sender.posting.idxOf g := by
    rw [hfirst, List.idxOf_append, if_neg (by rw [List.mem_append]; exact fun h => h.elim hg_earlier hg_skipped)]
    exact Nat.le_add_left _ _
  exact hle.trans hge

end

end Sys2Proof.Machine

namespace Sys2Proof

open Machine

/-- Settles O49: the beats of each field, then its number read back. -/
theorem sentWordAndBodyReadBack : Obligations.SentWordAndBodyReadBack := by
  refine ⟨fun u k key n => ⟨?_, ?_, ?_, ?_⟩, fun s h e ho he hlen => ?_⟩
  · exact word_field u k key n (a := 0) (w := 4) (by decide) (contentionWord_urgency u k key n)
  · exact (congrArg kindOfCode (word_field u k key n (by decide) (contentionWord_kind u k key n))).trans (kindOfCode_code k)
  · exact word_field u k key n (by decide) (contentionWord_key u k key n)
  · have hstation := word_field u k key n (a := 17) (w := 5) (by decide) fun i _ => contentionWord_station u k key n i
    refine Fin.ext ((congrArg BitVec.toNat hstation).trans ?_)
    rw [BitVec.toNat_ofNat, Nat.mod_eq_of_lt n.isLt]
  · have hdata := ownData_notice ho he
    refine ⟨?_, ?_, ?_⟩
    · rw [List.map_congr_left (g := fun i => Level.ofBit ((BitVec.ofNat 4 e.data.length).getMsbD i))
        fun i hi => by rw [ownBodyBeat_length s (List.mem_range.mp hi), hdata], ← beatsAt_zero, beatsValue_all,
        BitVec.toNat_ofNat]
      exact Nat.mod_eq_of_lt (by omega)
    · rw [List.map_congr_left (g := dataBeat e.data)
        fun i hi => by rw [ownBodyBeat_data s (by rw [hdata]; exact List.mem_range.mp hi), hdata]]
      exact beatsBytes_dataBeats e.data
    · rw [List.map_congr_left (g := fun i => Level.ofBit (s.contention.check.getMsbD i))
        fun i _ => by rw [← hdata, ownBodyBeat_check], ← beatsAt_zero, beatsValue_all, BitVec.ofNat_toNat, BitVec.setWidth_eq]

/-- Settles O46: the candidates by kind, the lowest by its place, each word by its fields. -/
theorem lowestCandidateIsOffered : Obligations.LowestCandidateIsOffered := by
  intro s
  refine ⟨candidate_hello_iff s, fun k => ?_, fun h => ?_, lowestItem_none_iff s _, fun i hi => ⟨lowestItem_mem hi,
    fun j hj => lowestItem_le hi hj, fun g h e hg hw => ?_⟩, fun key hkey => ?_, fun k => ?_, fun h e he => ?_⟩
  · rw [candidate_claim_iff, claimable_iff, mayClaim_iff]
    constructor
    · rintro ⟨hl, hm, ⟨-, -, hrole, hrec, hflag, hent, howner⟩, hrest⟩
      exact ⟨hl, hm, hrole, hrec, hflag, hent, howner, hrest⟩
    · rintro ⟨hl, hm, hrole, hrec, hflag, hent, howner, hrest⟩
      exact ⟨hl, hm, ⟨hl, hm, hrole, hrec, hflag, hent, howner⟩, hrest⟩
  · rw [candidate_notice_iff, entryWaiting_iff]
  · subst e
    exact lowestItem_posted_first hi hg hw
  · rw [State.itemWord, hkey, contentionWord_toNat]
    simp [ItemKind.code]
  · rw [State.itemWord, contentionWord_toNat, BitVec.toNat_ofNat, Nat.mod_eq_of_lt (by omega)]
    simp [ItemKind.code]
  · have hword : s.itemWord (.notice h) = contentionWord e.urgency .notice e.tag s.straps.stationNumber := by
      unfold State.itemWord
      dsimp only
      rw [he]
    rw [hword, contentionWord_toNat]
    simp [ItemKind.code]

end Sys2Proof
end

section
/-! SUPPORT. The two edges of a beat: what a station drives from the fall of SLB, and what it takes in at the rise (chapters 1 and 2). -/

namespace Sys2Proof.Machine

open Sys2Proof

/-! ## The beat commands as completed steps -/

theorem exec_beatStart (s : State) : exec .beatStart s = complete s (if s.mayFall then s.settleRound.fallSlb else s) := rfl

theorem exec_beatEnd (l : Level) (s : State) :
    exec (.beatEnd l) s = complete s (if s.mayRise then s.riseSlb l else s) := rfl

theorem exec_enterBeat (l : Level) (s : State) : exec (.enterBeat l) s =
    complete s (if s.settleRound.atPhase .enter then s.settleRound.enterStep l else s) := rfl

theorem exec_frameEnd (l : Level) (s : State) : exec (.frameEnd l) s =
    complete s (if s.settleRound.atPhase .verdict then s.settleRound.frameEndStep l else s) := rfl

theorem exec_roundEndedWithWinner (s : State) : exec .roundEndedWithWinner s = complete s s.settleRound := rfl

theorem mayFall_iff (s : State) : s.mayFall = true ↔
    s.line.medium = .inFrame ∧ s.line.slb = .recessive ∧ s.line.phase ≠ .closed ∧ s.line.phase ≠ .noFrame := by
  simp [State.mayFall, and_assoc]

theorem mayRise_iff (s : State) : s.mayRise = true ↔ s.line.medium = .inFrame ∧ s.line.slb = .dominant := by
  simp [State.mayRise]

theorem roundDue_iff (s : State) : s.roundDue = true ↔ s.line.medium = .inFrame ∧ s.line.phase = .roundEnd := by
  simp [State.roundDue]

/-- R36: where no round's end is due, none is carried out. -/
theorem settleRound_self {s : State} (h : s.line.medium ≠ .inFrame ∨ s.line.phase ≠ .roundEnd) : s.settleRound = s := by
  have hdue : ¬ s.roundDue = true := by
    rw [roundDue_iff, not_and_or]
    exact h
  rw [State.settleRound, if_neg hdue]

/-! ## Faults -/

section
variable (s : State) (c : Prop) [Decidable c]

theorem driveFault_ite (b : Bool) : (if c then s.driveFault b else s) = { s with
    errors := { s.errors with driveFault := s.errors.driveFault || decide c }
    contention := { s.contention with driveFault := s.contention.driveFault || decide c && b } } := by
  by_cases h : c
  · rw [if_pos h, decide_eq_true h, Bool.or_true, Bool.true_and]
    rfl
  · rw [if_neg h, decide_eq_false h, Bool.or_false, Bool.false_and, Bool.or_false]

theorem formFault_ite : (if c then s.formFault else s) = { s with
    errors := { s.errors with formFault := s.errors.formFault || decide c }
    contention := { s.contention with formFault := s.contention.formFault || decide c } } := by
  by_cases h : c
  · rw [if_pos h, decide_eq_true h, Bool.or_true, Bool.or_true]
    rfl
  · rw [if_neg h, decide_eq_false h, Bool.or_false, Bool.or_false]

theorem checkFault_ite : (if c then s.checkFault else s) = { s with
    errors := { s.errors with checkFault := s.errors.checkFault || decide c }
    contention := { s.contention with checkFault := s.contention.checkFault || decide c } } := by
  by_cases h : c
  · rw [if_pos h, decide_eq_true h, Bool.or_true, Bool.or_true]
    rfl
  · rw [if_neg h, decide_eq_false h, Bool.or_false, Bool.or_false]

end

theorem decide_drove_lost (d l : Level) :
    decide (d = .dominant ∧ l = .recessive) = (d == .dominant && l == .recessive) := by
  rw [Bool.decide_and]
  rfl

theorem decide_ne_level (d l : Level) : decide (d ≠ l) = (d != l) := by cases d <;> cases l <;> rfl

/-! ## Slot beats (R7, R9) -/

theorem plannedSlot (s : State) (n : Nat) : PlannedSlot s n (s.slotDrive n) := by
  unfold State.slotDrive
  refine ⟨fun h => ?_, fun h hn => ?_, fun k => ⟨?_, ?_, ?_⟩⟩
  · rw [if_pos (h ▸ s.straps.stationNumber.isLt), if_pos h]
  · rw [if_pos h, if_neg hn]
  · rintro rfl
    rw [if_neg (by omega), dif_pos (by omega)]
    simp only [Nat.add_sub_cancel_left]
    rfl
  · rintro rfl
    rw [if_neg (by omega), dif_neg (by omega), dif_pos (by omega)]
    simp only [Nat.add_sub_cancel_left]
    rfl
  · rintro rfl
    rw [if_neg (by omega), dif_neg (by omega), dif_neg (by omega), dif_pos (by omega)]
    simp only [Nat.add_sub_cancel_left]
    rfl

section
variable (t : SlotSamples) (n : Nat) (l : Level)

theorem store_roster (m : StationNo) : (t.store n l).roster[m] = if n = m.val then l else t.roster[m] := by
  unfold SlotSamples.store
  by_cases h : n < 32
  · rw [dif_pos h]
    dsimp only
    rw [tablePut_get]
    exact if_congr (by rw [Fin.ext_iff]; exact eq_comm) rfl rfl
  · rw [dif_neg h, if_neg (by omega)]
    split_ifs <;> rfl

theorem store_line (k : LineNo) : (t.store n l).line[k] = if n = 32 + k.val then l else t.line[k] := by
  unfold SlotSamples.store
  by_cases h : n < 32
  · rw [dif_pos h, if_neg (by omega)]
  · rw [dif_neg h]
    by_cases h' : n - 32 < 48
    · rw [dif_pos h']
      dsimp only
      rw [tablePut_get]
      exact if_congr (by rw [Fin.ext_iff]; exact (by dsimp only; omega)) rfl rfl
    · rw [dif_neg h', if_neg (by omega)]
      split_ifs <;> rfl

theorem store_held (k : LineNo) : (t.store n l).held[k] = if n = 80 + k.val then l else t.held[k] := by
  unfold SlotSamples.store
  by_cases h : n < 32
  · rw [dif_pos h, if_neg (by omega)]
  · rw [dif_neg h]
    by_cases h' : n - 32 < 48
    · rw [dif_pos h', if_neg (by omega)]
    · rw [dif_neg h']
      by_cases h'' : n - 80 < 48
      · rw [dif_pos h'']
        dsimp only
        rw [tablePut_get]
        exact if_congr (by rw [Fin.ext_iff]; exact (by dsimp only; omega)) rfl rfl
      · rw [dif_neg h'', if_neg (by omega)]
        split_ifs <;> rfl

theorem store_mark (k : LineNo) : (t.store n l).mark[k] = if n = 128 + k.val then l else t.mark[k] := by
  unfold SlotSamples.store
  by_cases h : n < 32
  · rw [dif_pos h, if_neg (by omega)]
  · rw [dif_neg h]
    by_cases h' : n - 32 < 48
    · rw [dif_pos h', if_neg (by omega)]
    · rw [dif_neg h']
      by_cases h'' : n - 80 < 48
      · rw [dif_pos h'', if_neg (by omega)]
      · rw [dif_neg h'']
        by_cases h''' : n - 128 < 48
        · rw [dif_pos h''']
          dsimp only
          rw [tablePut_get]
          exact if_congr (by rw [Fin.ext_iff]; exact (by dsimp only; omega)) rfl rfl
        · rw [dif_neg h''', if_neg (by omega)]

end

/-- R7, R41: a slot beat's end, as one update. -/
theorem slotEnd_eq (s : State) (l : Level) : s.slotEnd l = { s with
    line := { s.line with
      samples := s.line.samples.store s.line.beatCount l, beatCount := s.line.beatCount + 1, slb := .recessive
      sld := s.slotDrive s.line.beatCount
      phase := if s.line.beatCount + 1 < 176 then .slots else .enter }
    errors := { s.errors with
      driveFault := s.errors.driveFault || (s.slotDrive s.line.beatCount == .dominant && l == .recessive) } } := by
  unfold State.slotEnd
  dsimp only
  rw [driveFault_ite, decide_drove_lost, Bool.and_false, Bool.or_false]
  rfl

/-! ## Word and body beats (R30 to R34) -/

theorem checkStep_eq (register : BitVec 16) (beat : Level) : checkStep register beat = checkAfter register beat := by
  unfold checkStep checkAfter
  rw [BitVec.msb_eq_getLsbD_last]

/-- What the station drives in a word beat. -/
def State.wordDrive (s : State) : Level :=
  if s.contention.role = .contender then s.ownWordBeat s.contention.word.length else .recessive

theorem wordDrive_receiver {s : State} (h : s.contention.role = .receiver) : s.wordDrive = .recessive :=
  if_neg (by rw [h]; decide)

theorem wordDrive_contender {s : State} (h : s.contention.role = .contender) {item : Item}
    (ho : s.contention.offered = some item) : s.wordDrive.bit = (s.itemWord item).getMsbD s.contention.word.length := by
  rw [State.wordDrive, if_pos h, State.ownWordBeat, ho]
  exact bit_ofBit _

theorem wordMalformed_eq (word : List Level) : wordMalformed word =
    (wordKind word == .unassigned || wordKind word == .claim && decide (47 < (wordKey word).toNat)) := by
  unfold wordMalformed
  cases wordKind word <;> rfl

/-- R30, R31, R34: a word beat's end, as one update. -/
theorem wordEnd_eq (s : State) (l : Level) : s.wordEnd l =
    let word := s.contention.word ++ [l]
    let contends := s.contention.role = .contender
    let fault := decide contends && s.wordDrive == .dominant && l == .recessive
    let malformed := decide (22 ≤ word.length) && wordMalformed word
    { s with
      contention := { s.contention with
        word, check := checkStep s.contention.check l
        role := if contends ∧ s.wordDrive ≠ l then .receiver else s.contention.role
        driveFault := s.contention.driveFault || fault
        formFault := s.contention.formFault || malformed }
      errors := { s.errors with
        driveFault := s.errors.driveFault || fault, formFault := s.errors.formFault || malformed }
      line := { s.line with
        beatCount := s.line.beatCount + 1, slb := .recessive, sld := s.wordDrive
        phase := if word.length < 22 then .word else if wordKind word = .notice then .body else .roundEnd } } := by
  have hfault : decide (s.contention.role = .contender ∧ s.wordDrive = .dominant ∧ l = .recessive) =
      (decide (s.contention.role = .contender) && s.wordDrive == .dominant && l == .recessive) := by
    rw [Bool.decide_and, decide_drove_lost, Bool.and_assoc]
  unfold State.wordEnd
  change (if (s.contention.word ++ [l]).length < 22 then State.countBeat
      (if s.contention.role = .contender ∧ s.wordDrive = .dominant ∧ l = .recessive then _ else _) s.wordDrive .word
    else State.countBeat (if wordMalformed (s.contention.word ++ [l]) then State.formFault
      (if s.contention.role = .contender ∧ s.wordDrive = .dominant ∧ l = .recessive then _ else _)
      else (if s.contention.role = .contender ∧ s.wordDrive = .dominant ∧ l = .recessive then _ else _)) s.wordDrive _) = _
  rw [formFault_ite, driveFault_ite, hfault, Bool.and_true]
  dsimp only
  by_cases h : (s.contention.word ++ [l]).length < 22
  · rw [if_pos h, if_pos h, decide_eq_false (Nat.not_le.mpr h), Bool.false_and, Bool.or_false, Bool.or_false]
    rfl
  · rw [if_neg h, if_neg h, decide_eq_true (Nat.not_lt.mp h), Bool.true_and, Bool.decide_eq_true]
    rfl

/-- R32 to R34: the winner's body beat ends. -/
theorem bodyEnd_contender {s : State} (h : s.contention.role = .contender) (l : Level) : s.bodyEnd l =
    let place := s.contention.body.length
    let drive := s.ownBodyBeat place
    { s with
      contention := { s.contention with
        body := s.contention.body ++ [l]
        check := if place < 4 + 8 * s.ownData.length then checkAfter s.contention.check drive else s.contention.check
        driveFault := s.contention.driveFault || drive != l }
      errors := { s.errors with driveFault := s.errors.driveFault || drive != l }
      line := { s.line with
        beatCount := s.line.beatCount + 1, slb := .recessive, sld := drive
        phase := if place + 1 < 4 + 8 * s.ownData.length + 16 then .body else .roundEnd } } := by
  have hlength (t : State) (ht : t.contention.role = .contender) : t.bodyLength = t.ownData.length := by
    rw [State.bodyLength, ht]
  have hcheck : (s.contention.body.length < 4 ∨ s.contention.body.length < 4 + 8 * s.ownData.length) ↔
      s.contention.body.length < 4 + 8 * s.ownData.length := by omega
  have hfault : decide (s.contention.role = .contender ∧ s.ownBodyBeat s.contention.body.length ≠ l) =
      (s.ownBodyBeat s.contention.body.length != l) := by
    rw [Bool.decide_and, decide_eq_true h, Bool.true_and, decide_ne_level]
  unfold State.bodyEnd
  dsimp only
  rw [formFault_ite, driveFault_ite, if_pos h, if_pos h, hfault, hlength s h, decide_eq_false (fun hn => hn.1 h),
    if_congr hcheck rfl rfl, checkStep_eq, Bool.and_true]
  simp only [Bool.or_false, List.length_append, List.length_singleton]
  rw [hlength]
  · rfl
  · exact h

/-- R33, R34: a receiver's body beat ends. -/
theorem bodyEnd_receiver {s : State} (h : s.contention.role = .receiver) (l : Level) : s.bodyEnd l =
    let place := s.contention.body.length
    let body := s.contention.body ++ [l]
    let counted := fun beats : List Level => min 8 (beatsValue (beats.take 4))
    let tooLong := place == 3 && decide (8 < beatsValue body)
    { s with
      contention := { s.contention with
        body
        check := if place < 4 ∨ place < 4 + 8 * counted s.contention.body then
          checkAfter s.contention.check l else s.contention.check
        formFault := s.contention.formFault || tooLong }
      errors := { s.errors with formFault := s.errors.formFault || tooLong }
      line := { s.line with
        beatCount := s.line.beatCount + 1, slb := .recessive, sld := .recessive
        phase := if place + 1 < 4 + 8 * counted body + 16 then .body else .roundEnd } } := by
  have hnot : ¬ s.contention.role = .contender := by rw [h]; decide
  have hlength (t : State) (ht : t.contention.role = .receiver) :
      t.bodyLength = min 8 (beatsValue (t.contention.body.take 4)) := by
    rw [State.bodyLength, ht]
    rfl
  have hfault (p : Prop) [Decidable p] : decide (s.contention.role = .contender ∧ p) = false :=
    decide_eq_false fun hn => hnot hn.1
  have hlong : decide (¬ s.contention.role = .contender ∧ (s.contention.body ++ [l]).length = 4 ∧
      8 < beatsValue (s.contention.body ++ [l])) =
      (s.contention.body.length == 3 && decide (8 < beatsValue (s.contention.body ++ [l]))) := by
    rw [Bool.decide_and, Bool.decide_and, decide_eq_true hnot, Bool.true_and, List.length_append, List.length_singleton]
    exact congrArg (· && _) (decide_eq_decide.mpr (Nat.succ_inj (a := s.contention.body.length) (b := 3)))
  unfold State.bodyEnd
  dsimp only
  rw [formFault_ite, driveFault_ite, if_neg hnot, if_neg hnot, hfault, hlong, hlength s h, checkStep_eq]
  simp only [Bool.or_false, Bool.false_and, List.length_append, List.length_singleton]
  rw [hlength]
  · rfl
  · exact h

/-! ## The verdict drive (R43) -/

theorem verdictLevel (s : State) : VerdictLevel s (verdictDrive s.membership.link s.membership.level s.errors.detected) := by
  rw [VerdictLevel, verdictDrive, pull_dominant_iff, Bool.and_eq_true, Bool.and_eq_true, detected_eq_true_iff, and_assoc]
  simp [or_assoc]

theorem beatDrive_followOn {s : State} (h : s.line.phase = .followOn) : s.beatDrive = Level.pull s.news := by
  rw [State.beatDrive, h]

/-! ## Enter beats (R23, R26) -/

/-- R26, R108, R127: the item recorded, and its owning block told. -/
theorem offerMade (s : State) (item : Option Item) : OfferMade item s (s.offer item) := by
  unfold State.offer
  cases item with
  | none => exact ⟨rfl, rfl, fun k => (if_neg (by simp)).symm, rfl, rfl, fun h => (if_neg (by simp)).symm⟩
  | some i =>
    cases i with
    | hello => exact ⟨rfl, rfl, fun k => (if_neg (by simp)).symm, rfl, rfl, fun h => (if_neg (by simp)).symm⟩
    | claim j =>
      refine ⟨rfl, setRecord_markOwed _ _ _, fun k => (setRecord_get s.claims j k .contending).trans (if_congr ?_ rfl rfl),
        rfl, rfl, fun h => (if_neg (by simp)).symm⟩
      simp [eq_comm]
    | notice g =>
      refine ⟨rfl, rfl, fun k => (if_neg (by simp)).symm, rfl, rfl, fun h => (tablePut_get _ _ _ _).trans ?_⟩
      by_cases hg : h = g
      · subst hg
        rw [if_pos rfl, if_pos rfl]
      · rw [if_neg hg, if_neg (by simpa using fun e => hg e.symm)]

theorem offer_line (s : State) (item : Option Item) : (s.offer item).line = s.line := by
  obtain ⟨heq, -⟩ := offerMade s item
  rw [heq]

theorem offer_errors (s : State) (item : Option Item) : (s.offer item).errors = s.errors := by
  obtain ⟨heq, -⟩ := offerMade s item
  rw [heq]

theorem offer_contention (s : State) (item : Option Item) :
    (s.offer item).contention = { s.contention with offered := item } := by
  cases item with
  | none => rfl
  | some i => cases i <;> rfl

theorem enterFall_eq (s : State) : s.enterFall = { s.offer (s.lowestItem s.candidates) with
    line := { s.line with slb := .dominant, sld := Level.pull (s.lowestItem s.candidates).isSome } } := by
  unfold State.enterFall
  dsimp only
  rw [offer_line]

theorem low_pull (b : Bool) : (Level.pull b).low = b := by cases b <;> rfl

theorem pull_low (l : Level) : Level.pull l.low = l := by cases l <;> rfl

/-- R109: a claim offered and handed back leaves the records as they were. -/
theorem handBack_setRecord {c : Claims} {k : LineNo} (h : c.records[k] = .idle) :
    (c.setRecord k .contending).handBack k = c := by
  have hget : (c.setRecord k .contending).records[k] = .contending := by rw [setRecord_get, if_pos rfl]
  rw [Claims.handBack, if_pos hget]
  unfold Claims.setRecord
  dsimp only
  rw [tablePut_put, ← h, tablePut_self]

/-- R127: a notice offered and handed back, its cancel not requested, leaves the list as it was. -/
theorem handBack_setEntry {t : Sender} {h : Handle} {e : TransmitEntry} (he : t.entries[h] = some e) (hs : e.state = .waiting)
    (hc : e.cancelRequested = false) :
    (t.setEntry h (t.entries[h].map fun e => { e with state := .contending })).handBack h = t := by
  have hget : (t.setEntry h (t.entries[h].map fun e => { e with state := .contending })).entries[h] =
      some { e with state := .contending } := by
    rw [he]
    exact (tablePut_get _ _ _ _).trans (if_pos rfl)
  have hback : { e with state := EntryState.waiting } = e := by rw [← hs]
  rw [Sender.handBack, hget]
  dsimp only
  rw [if_pos rfl, hc, if_neg Bool.false_ne_true]
  unfold Sender.setEntry
  dsimp only
  rw [tablePut_put, ← hc, hback, ← he, tablePut_self]

/-- R109, R127: what an enter beat offers and takes back leaves the blocks as they were. -/
theorem offer_handBack {s : State} (ht : s.TransmitOk) :
    (s.offer (s.lowestItem s.candidates)).handBackOffered = { s with contention := { s.contention with offered := none } } := by
  cases hi : s.lowestItem s.candidates with
  | none => rfl
  | some i =>
    have hmem := lowestItem_mem hi
    cases i with
    | hello => rfl
    | claim k =>
      obtain ⟨-, -, hk⟩ := candidate_claimable hmem
      obtain ⟨hmay, -⟩ := (claimable_iff s k).mp hk
      obtain ⟨-, -, -, hidle, -⟩ := (mayClaim_iff s k).mp hmay
      exact congrArg (fun c => { s with contention := { s.contention with offered := none }, claims := c })
        (handBack_setRecord hidle)
    | notice h =>
      obtain ⟨-, -, -, hw⟩ := candidate_waiting hmem
      obtain ⟨e, he, hs⟩ := (entryWaiting_iff _).mp hw
      exact congrArg (fun t => { s with contention := { s.contention with offered := none }, sender := t })
        (handBack_setEntry he hs (((transmitOk_iff s).mp ht).uncancelled h e he hs))

/-- Handing back takes no notice of the line and the error marks. -/
theorem handBackOffered_line_errors (s : State) (l : LineController) (e : ErrorRecord) :
    ({ s with line := l, errors := e } : State).handBackOffered = { s.handBackOffered with line := l, errors := e } := by
  rw [handBackOffered_eq, handBackOffered_eq]

theorem driveFault_false (s : State) :
    s.driveFault false = { s with errors := { s.errors with driveFault := true } } := by
  unfold State.driveFault
  rw [Bool.or_false]

/-- R23: an enter beat sampled recessive ends the contention phase. -/
theorem enterSampled_recessive (s : State) (drove : Bool) : s.enterSampled drove .recessive =
    { (if drove then s.handBackOffered else s) with
      errors := { s.errors with driveFault := s.errors.driveFault || drove }
      line := { s.line with beatCount := s.line.beatCount + 1, slb := .recessive, sld := Level.pull drove, phase := .verdict } } := by
  cases drove with
  | false =>
    rw [Bool.or_false]
    rfl
  | true =>
    rw [Bool.or_true]
    unfold State.enterSampled
    dsimp only
    rw [if_pos rfl, driveFault_false,
      show ({ s with errors := { s.errors with driveFault := true } } : State) =
        { s with line := s.line, errors := { s.errors with driveFault := true } } from rfl, handBackOffered_line_errors]
    rfl

theorem enterStep_whole {s : State} (h : s.line.slb = .recessive) (l : Level) :
    s.enterStep l = s.enterFall.enterSampled (s.lowestItem s.candidates).isSome l := by
  have hnot : ¬ s.line.slb = .dominant := by rw [h]; decide
  unfold State.enterStep
  dsimp only
  rw [if_neg hnot, enterFall_eq]
  dsimp only
  rw [low_pull]

theorem enterStep_begun {s : State} (h : s.line.slb = .dominant) (l : Level) :
    s.enterStep l = s.enterSampled s.line.sld.low l := by
  unfold State.enterStep
  dsimp only
  rw [if_pos h]

theorem enterFall_handBack {s : State} (ht : s.TransmitOk) :
    (if (s.lowestItem s.candidates).isSome then s.enterFall.handBackOffered else s.enterFall) = { s with
      contention := { s.contention with offered := none }
      line := { s.line with slb := .dominant, sld := Level.pull (s.lowestItem s.candidates).isSome } } := by
  cases hi : (s.lowestItem s.candidates).isSome with
  | false =>
    rw [if_neg Bool.false_ne_true, enterFall_eq, Option.isSome_eq_false_iff.mp hi |> Option.isNone_iff_eq_none.mp]
    rfl
  | true =>
    have hback := handBackOffered_line_errors (s.offer (s.lowestItem s.candidates))
      { s.line with slb := .dominant, sld := Level.pull true } (s.offer (s.lowestItem s.candidates)).errors
    rw [offer_handBack ht] at hback
    rw [if_pos rfl, enterFall_eq, hi]
    refine hback.trans ?_
    rw [offer_errors]

/-- R109, R127: at the end of an enter beat begun by its own command. -/
theorem handBack_begun {s : State} (h : s.line.sld = .dominant ∨ s.contention.offered = none) :
    (if s.line.sld.low then s.handBackOffered else s) = s.handBackOffered := by
  by_cases hl : s.line.sld = .dominant
  · exact if_pos ((low_eq_true_iff _).mpr hl)
  · rw [if_neg (mt (low_eq_true_iff _).mp hl), State.handBackOffered, h.resolve_left hl]

theorem low_eq_beq (l : Level) : l.low = (l == .dominant) := by cases l <;> rfl

/-! ## The end of a round (R35 to R37) -/

theorem win_get (c : Claims) (j k : LineNo) : (c.win j).records[k] =
    if k = j ∧ c.records[k] = .contending then .won else c.records[k] := by
  by_cases hc : c.records[j] = .contending
  · rw [Claims.win, if_pos hc, setRecord_get]
    by_cases hk : k = j
    · subst hk
      rw [if_pos rfl, if_pos ⟨rfl, hc⟩]
    · rw [if_neg hk, if_neg fun h => hk h.1]
  · have hnot : ¬ (k = j ∧ c.records[k] = .contending) := by
      rintro ⟨rfl, h⟩
      exact hc h
    rw [Claims.win, if_neg hc, if_neg hnot]

theorem win_markOwed (c : Claims) (j : LineNo) : (c.win j).markOwed = c.markOwed := by
  by_cases hc : c.records[j] = .contending
  · rw [Claims.win, if_pos hc, setRecord_markOwed]
  · rw [Claims.win, if_neg hc]

theorem senderWin_entries (t : Sender) (g h : Handle) : (t.win g).entries[h] =
    t.entries[h].map fun e => if h = g ∧ e.state = .contending then { e with state := .won } else e := by
  unfold Sender.win
  by_cases hg : h = g
  · subst hg
    cases he : t.entries[h] with
    | none => exact he
    | some e =>
      dsimp only
      by_cases hc : e.state = .contending
      · rw [if_pos hc]
        refine ((tablePut_get _ _ _ _).trans (if_pos rfl)).trans ?_
        rw [Option.map_some, if_pos ⟨rfl, hc⟩]
      · rw [if_neg hc, he, Option.map_some, if_neg fun h => hc h.2]
  · have hsame : t.entries[h].map (fun e => if h = g ∧ e.state = .contending then { e with state := .won } else e) =
        t.entries[h] := by
      cases t.entries[h] with
      | none => rfl
      | some e => rw [Option.map_some, if_neg fun h => hg h.1]
    rw [hsame]
    cases t.entries[g] with
    | none => rfl
    | some e =>
      dsimp only
      by_cases hc : e.state = .contending
      · rw [if_pos hc]
        exact (tablePut_get _ _ _ _).trans (if_neg hg)
      · rw [if_neg hc]

theorem senderWin_lists (t : Sender) (g : Handle) : (t.win g).posting = t.posting ∧ (t.win g).reports = t.reports := by
  unfold Sender.win
  split
  · split <;> exact ⟨rfl, rfl⟩
  · exact ⟨rfl, rfl⟩

/-- R36: telling the owner changes its block alone. -/
theorem tellWon_parts (s : State) : s.tellWon = { s with claims := s.tellWon.claims, sender := s.tellWon.sender } := by
  unfold State.tellWon
  split <;> rfl

/-- R109: the claim records after a round won. -/
theorem tellWon_claims (s : State) : s.tellWon.claims.markOwed = s.claims.markOwed ∧
    ∀ k : LineNo, s.tellWon.claims.records[k] =
      if s.contention.offered = some (.claim k) ∧ s.claims.records[k] = .contending then .won else s.claims.records[k] := by
  unfold State.tellWon
  cases ho : s.contention.offered with
  | none => exact ⟨rfl, fun k => (if_neg (by simp)).symm⟩
  | some i =>
    cases i with
    | hello => exact ⟨rfl, fun k => (if_neg (by simp)).symm⟩
    | notice h => exact ⟨rfl, fun k => (if_neg (by simp)).symm⟩
    | claim j =>
      refine ⟨win_markOwed _ j, fun k => (win_get _ j k).trans ?_⟩
      simp only [Option.some.injEq, Item.claim.injEq, eq_comm]

/-- R127: the transmit list after a round won. -/
theorem tellWon_sender (s : State) : s.tellWon.sender.posting = s.sender.posting ∧
    s.tellWon.sender.reports = s.sender.reports ∧
    ∀ h : Handle, s.tellWon.sender.entries[h] = s.sender.entries[h].map fun e =>
      if s.contention.offered = some (.notice h) ∧ e.state = .contending then { e with state := .won } else e := by
  have hsame (o : Option Item) (h : Handle) (hn : o ≠ some (.notice h)) : s.sender.entries[h] =
      s.sender.entries[h].map fun e => if o = some (.notice h) ∧ e.state = .contending then { e with state := .won } else e := by
    cases s.sender.entries[h] with
    | none => rfl
    | some e => rw [Option.map_some, if_neg fun h => hn h.1]
  unfold State.tellWon
  cases ho : s.contention.offered with
  | none => exact ⟨rfl, rfl, fun h => hsame _ h (by simp)⟩
  | some i =>
    cases i with
    | hello => exact ⟨rfl, rfl, fun h => hsame _ h (by simp)⟩
    | claim k => exact ⟨rfl, rfl, fun h => hsame _ h (by simp)⟩
    | notice g =>
      obtain ⟨hposting, hreports⟩ := senderWin_lists s.sender g
      refine ⟨hposting, hreports, fun h => (senderWin_entries _ g h).trans ?_⟩
      simp only [Option.some.injEq, Item.notice.injEq, eq_comm]

/-- R35: the state of a round's end with the check compared. -/
def State.checked (s : State) : State := { s with
  errors := { s.errors with checkFault := s.errors.checkFault || s.checkDiffers }
  contention := { s.contention with checkFault := s.contention.checkFault || s.checkDiffers } }

/-- R36: the owner of the offered item told that it won or lost. -/
def State.told (s : State) : State := if s.contention.role = .contender then s.tellWon else s.handBackOffered

/-- R36, R37: the record of a round appended, and the beat that follows it. -/
def State.appended (s : State) (w : WinnerRecord) : State := { s with
  contention := { s.contention with offered := none, winners := s.contention.winners ++ [w] }
  line := { s.line with phase := if s.contention.round < 4 then .enter else .verdict } }

theorem told_parts (s : State) : s.told = { s with
    contention := { s.contention with offered := if s.contention.role = .contender then s.contention.offered else none }
    claims := s.told.claims, sender := s.told.sender } := by
  unfold State.told
  by_cases hc : s.contention.role = .contender
  · rw [if_pos hc, if_pos hc]
    exact tellWon_parts s
  · rw [if_neg hc, if_neg hc]
    exact handBackOffered_parts s

theorem told_won {s : State} (h : s.contention.role = .contender) : s.told = s.tellWon := if_pos h

theorem told_lost {s : State} (h : ¬ s.contention.role = .contender) : s.told = s.handBackOffered := if_neg h

theorem checked_eq (s : State) : (if s.checkDiffers then s.checkFault else s) = s.checked := by
  rw [checkFault_ite, Bool.decide_eq_true]
  rfl

/-- R36: a round's end, as one update. -/
theorem endRound_eq (s : State) : s.endRound = { s with
    contention := { s.contention with
      offered := none, checkFault := s.contention.checkFault || s.checkDiffers
      winners := s.contention.winners ++ [s.checked.winnerRecord] }
    errors := { s.errors with checkFault := s.errors.checkFault || s.checkDiffers }
    line := { s.line with phase := if s.contention.round < 4 then .enter else .verdict }
    claims := s.checked.told.claims
    sender := s.checked.told.sender } := by
  have hsteps : s.endRound = s.checked.told.appended s.checked.winnerRecord := by
    rw [← checked_eq]
    rfl
  rw [hsteps]
  exact congrArg (fun t => State.appended t s.checked.winnerRecord) (told_parts s.checked)

/-- R36: the length and data of a notice's record, by the role. -/
theorem recordLength_receiver {s : State} (hn : wordKind s.contention.word = .notice) (hr : s.contention.role = .receiver) :
    s.recordLength = beatsValue (s.contention.body.take 4) := by
  rw [State.recordLength, if_pos hn, hr]

theorem recordData_receiver {s : State} (hn : wordKind s.contention.word = .notice) (hr : s.contention.role = .receiver)
    (hl : beatsValue (s.contention.body.take 4) ≤ 8) :
    s.recordData = beatsBytes (beatsValue (s.contention.body.take 4)) (s.contention.body.drop 4) := by
  rw [State.recordData, if_pos hn, hr]
  exact if_pos hl

theorem recordLength_contender {s : State} (hn : wordKind s.contention.word = .notice) (hr : s.contention.role = .contender) :
    s.recordLength = s.ownData.length := by
  rw [State.recordLength, if_pos hn, hr]

theorem recordData_contender {s : State} (hn : wordKind s.contention.word = .notice) (hr : s.contention.role = .contender) :
    s.recordData = s.ownData := by
  rw [State.recordData, if_pos hn, hr]

theorem role_receiver_iff {r : RoundRole} : ¬ r = .contender ↔ r = .receiver := by cases r <;> decide

/-- R35: the check compared by a RECEIVER of a notice of a length in range. -/
theorem checkDiffers_eq (s : State) : s.checkDiffers =
    (decide (¬ s.contention.role = .contender ∧ wordKind s.contention.word = .notice ∧
      beatsValue (s.contention.body.take 4) ≤ 8) &&
    BitVec.ofNat 16 (beatsValue ((s.contention.body.drop (4 + 8 * beatsValue (s.contention.body.take 4))).take 16)) !=
      s.contention.check) := by
  have hrole : decide (¬ s.contention.role = .contender) = (s.contention.role == .receiver) := by
    cases s.contention.role <;> rfl
  have hkind : decide (wordKind s.contention.word = .notice) = (wordKind s.contention.word == .notice) := rfl
  rw [Bool.decide_and, Bool.decide_and, hrole, hkind, ← Bool.and_assoc]
  rfl

end Sys2Proof.Machine

namespace Sys2Proof

open Machine

/-- Settles O42: the drive by phase, and what the enter beat offers. -/
theorem beatStartDrivesTheBeat : Obligations.BeatStartDrivesTheBeat := by
  intro s
  refine ⟨fun hm hb hn hc => ?_, fun hs hno => ?_⟩
  · dsimp only
    rw [exec_beatStart, if_pos ((mayFall_iff s).mpr ⟨hm, hb, hc, hn⟩)]
    by_cases he : s.settleRound.line.phase = .enter
    · refine ⟨Level.pull (s.settleRound.lowestItem s.settleRound.candidates).isSome,
        s.settleRound.offer (s.settleRound.lowestItem s.settleRound.candidates), ?_, fun h => absurd he h,
        fun _ => offerMade _ _, ?_, fun _ => ?_, ?_, ?_, ?_, ?_, ?_, ?_⟩
      · rw [State.fallSlb, if_pos he, enterFall_eq, if_neg (by rw [he]; decide), if_neg (by rw [he]; decide), ← offer_errors]
        rfl
      case refine_3 => rw [pull_dominant_iff, Option.isSome_iff_ne_none, ne_eq, lowestItem_none_iff]
      all_goals
        intro h
        rw [he] at h
        simp at h
    · refine ⟨s.settleRound.beatDrive, s.settleRound, ?_, fun _ => rfl, fun h => absurd h he, fun h _ => ?_, fun h => absurd h he,
        fun h hr item ho => ?_, fun h hr => ?_, fun h hr => ?_, fun h => ?_, fun h => ?_, fun h => ?_⟩
      · by_cases hf : s.settleRound.line.phase = .followOn
        · rw [State.fallSlb, if_neg he, if_pos hf, if_pos hf, if_neg (by rw [hf]; decide), beatDrive_followOn hf]
          rfl
        · rw [State.fallSlb, if_neg he, if_neg hf, if_neg hf]
          rfl
      · rw [State.beatDrive, h]
        exact plannedSlot _ _
      · rw [State.beatDrive, h]
        exact wordDrive_contender hr ho
      · have hnot : ¬ s.settleRound.contention.role = .contender := role_receiver_iff.mpr hr
        obtain h | h := h <;> rw [State.beatDrive, h] <;> exact if_neg hnot
      · rw [State.beatDrive, h]
        exact if_pos hr
      · rw [State.beatDrive, h]
        exact verdictLevel _
      · rw [State.beatDrive, h]
        exact pull_dominant_iff _
      · rw [State.beatDrive, h]
  · have hnot : ¬ s.mayFall = true := by
      rw [mayFall_iff]
      rintro ⟨hm, hb, hc, hn⟩
      obtain h | h | h | h := hno
      · exact h hm
      · rw [h] at hb; cases hb
      · exact hn h
      · exact hc h
    rw [exec_beatStart, if_neg hnot, complete_self hs]

/-- Settles O43. -/
theorem slotBeatStoresItsSample : Obligations.SlotBeatStoresItsSample := by
  intro s l hm hb hp hc
  refine ⟨s.slotDrive s.line.beatCount, s.line.samples.store s.line.beatCount l, plannedSlot s _, store_roster _ _ _,
    fun k => ⟨store_line _ _ _ k, store_held _ _ _ k, store_mark _ _ _ k⟩, ?_⟩
  have hphase : (if s.line.beatCount + 1 < 176 then Phase.slots else .enter) =
      if s.line.beatCount = 175 then .enter else .slots := by
    split_ifs <;> first | rfl | omega
  rw [exec_beatEnd, if_pos ((mayRise_iff s).mpr ⟨hm, hb⟩), State.riseSlb, hp]
  dsimp only
  rw [slotEnd_eq, hphase]
  rfl

/-- Settles O44: the word beat as one update; the other beats end by their own steps. -/
theorem wordBeatIsReadAndCompared : Obligations.WordBeatIsReadAndCompared := by
  intro s l hm hb
  have hrise : s.mayRise = true := (mayRise_iff s).mpr ⟨hm, hb⟩
  refine ⟨fun hp => ⟨s.wordDrive, wordDrive_receiver, fun hr item ho => wordDrive_contender hr ho, ?_⟩, fun hp => ?_,
    fun hp => ?_, fun hp => ?_, fun hp => ?_⟩ <;> rw [exec_beatEnd, if_pos hrise, State.riseSlb, hp] <;> dsimp only
  · rw [wordEnd_eq, checkStep_eq]
    dsimp only
    rw [wordMalformed_eq]
    rfl
  · rfl
  · have hself : s.settleRound = s := settleRound_self (.inr (by rw [hp]; decide))
    rw [exec_enterBeat, hself, if_pos ((atPhase_iff s _).mpr ⟨hm, hp⟩)]
  · have hself : s.settleRound = s := settleRound_self (.inr (by rw [hp]; decide))
    rw [exec_frameEnd, hself, if_pos ((atPhase_iff s _).mpr ⟨hm, hp⟩)]
  · rw [exec_followOnBeat, if_pos ((atPhase_iff s _).mpr ⟨hm, hp⟩)]

/-- Settles O45, by the role. -/
theorem bodyBeatIsReadByRole : Obligations.BodyBeatIsReadByRole := by
  intro s l hm hb hp
  refine ⟨fun hr => ?_, fun hr => ?_⟩ <;>
    rw [exec_beatEnd, if_pos ((mayRise_iff s).mpr ⟨hm, hb⟩), State.riseSlb, hp] <;> dsimp only
  · rw [bodyEnd_contender hr]
    rfl
  · rw [bodyEnd_receiver hr]
    rfl

/-- Settles O47: a whole enter beat, and the end of one begun. -/
theorem enterBeatOpensOrEndsContention : Obligations.EnterBeatOpensOrEndsContention := by
  intro s
  refine ⟨fun hm hp hb ht => ⟨⟨_, offerMade _ _, ?_⟩, ?_⟩, fun hm hp hb ho => ⟨?_, ?_⟩, fun hs hn l => ?_⟩
  · rw [exec_enterBeat, if_pos ((atPhase_iff _ _).mpr ⟨hm, hp⟩), enterStep_whole hb, enterFall_eq]
    unfold State.enterSampled
    dsimp only
    rw [offer_contention]
    rfl
  · rw [exec_enterBeat, if_pos ((atPhase_iff _ _).mpr ⟨hm, hp⟩), enterStep_whole hb, enterSampled_recessive,
      enterFall_handBack ht, enterFall_eq]
    dsimp only
    rw [offer_errors]
    rfl
  · rw [exec_enterBeat, if_pos ((atPhase_iff _ _).mpr ⟨hm, hp⟩), enterStep_begun hb]
    unfold State.enterSampled
    dsimp only
    rw [pull_low, if_congr (low_eq_true_iff _) rfl rfl]
    rfl
  · obtain ⟨howed, hrecords⟩ := handBackOffered_claims s.settleRound
    refine ⟨_, _, noticeHandedBack s.settleRound, howed, hrecords, ?_⟩
    rw [exec_enterBeat, if_pos ((atPhase_iff _ _).mpr ⟨hm, hp⟩), enterStep_begun hb, enterSampled_recessive, handBack_begun ho,
      pull_low, low_eq_beq, handBackOffered_parts]
    rfl
  · have hself : s.settleRound = s := settleRound_self (hn.imp_right And.right)
    have hnot : ¬ s.atPhase .enter = true := by
      rw [atPhase_iff, not_and_or]
      exact hn.imp_right And.left
    rw [exec_enterBeat, hself, if_neg hnot, complete_self hs]

/-- Settles O48: the round's end as one update, its parts by the role. -/
theorem roundEndAppendsWinnerAndTellsOwner : Obligations.RoundEndAppendsWinnerAndTellsOwner := by
  intro s
  refine ⟨exec_roundEndedWithWinner s, settleRound_self, fun hm hp => ?_⟩
  refine ⟨s.checked.winnerRecord, s.checked.told.claims, s.checked.told.sender, rfl, rfl, rfl, rfl, rfl, rfl, fun hn hw => ?_,
    fun hn h e hw ho he => ?_, ?_, ?_, fun k => ?_, fun hw => ?_, fun hw => ?_, ?_⟩
  · have hr : s.checked.contention.role = .receiver := role_receiver_iff.mp hw
    exact ⟨recordLength_receiver hn hr, fun hl => recordData_receiver hn hr hl⟩
  · have hdata : s.checked.ownData = e.data := ownData_notice ho he
    exact ⟨(recordLength_contender hn hw).trans (congrArg List.length hdata), (recordData_contender hn hw).trans hdata⟩
  · have herror : s.checked.winnerRecord.error =
        (s.contention.driveFault || (s.contention.checkFault || s.checkDiffers) || s.contention.formFault) := rfl
    rw [herror, ← checkDiffers_eq]
    simp only [Bool.or_eq_true]
    tauto
  · by_cases hc : s.contention.role = .contender
    · rw [told_won (s := s.checked) hc]
      exact (tellWon_claims s.checked).1
    · rw [told_lost (s := s.checked) hc]
      exact (handBackOffered_claims s.checked).1
  · by_cases hc : s.contention.role = .contender
    · rw [told_won (s := s.checked) hc, if_pos hc]
      exact (tellWon_claims s.checked).2 k
    · rw [told_lost (s := s.checked) hc, if_neg hc]
      exact (handBackOffered_claims s.checked).2 k
  · rw [told_lost (s := s.checked) hw]
    exact noticeHandedBack s.checked
  · rw [told_won (s := s.checked) hw]
    exact tellWon_sender s.checked
  · dsimp only
    rw [← checkDiffers_eq, State.settleRound, if_pos ((roundDue_iff s).mpr ⟨hm, hp⟩)]
    exact endRound_eq s

end Sys2Proof
end

section
/-! SUPPORT. The end of the verdict beat (3.6): a frame that is not accepted, and the form of the state an accepted frame leaves. -/

namespace Sys2Proof.Machine

open Sys2Proof

/-! ## A frame that is not accepted (R44, R46) -/

theorem faultSeen_iff (s : State) : s.FaultSeen ↔ s.errors.detected = true := (detected_eq_true_iff s.errors).symm

theorem atVerdict_settled {s r : State} (h : s.AtVerdict r) (l : Level) :
    exec (.frameEnd l) s = .next (settle s (r.frameEndStep l)) := by
  obtain ⟨rfl, hm, hp⟩ := h
  rw [exec_frameEnd, if_pos ((atPhase_iff _ _).mpr ⟨hm, hp⟩)]
  rfl

theorem frameOutcome_refused {l : Level} {d : Bool} (h : l = .dominant ∨ d = true) : frameOutcome l d ≠ .accepted := by
  cases l <;> cases d <;> simp_all [frameOutcome]

/-- R48, R111, R129: a frame end that is not accepted counts and drops what the frame won. -/
theorem frameEndStep_refused {s : State} {l : Level} (h : l = .dominant ∨ s.FaultSeen) : s.frameEndStep l =
    (((s.verdictTaken l).setTally (tallyAfter (frameOutcome l s.errors.detected) s.errors.detected s.membership.tally)
      ).dropFrame).withdrawIfDue := by
  have hno := frameOutcome_refused (h.imp_right (faultSeen_iff s).mp)
  rw [frameEndStep_eq]
  cases ho : frameOutcome l s.errors.detected with
  | accepted => exact absurd ho hno
  | voided => rfl
  | locallyDiscarded => rfl

theorem tallyAfter_refused {s : State} {l : Level} (h : l = .dominant ∨ s.FaultSeen) {tally : Nat}
    (h8 : s.FaultSeen → tally = min 255 (s.membership.tally + 8))
    (h1 : ¬ s.FaultSeen → tally = min 255 (s.membership.tally + 1)) :
    tallyAfter (frameOutcome l s.errors.detected) s.errors.detected s.membership.tally = tally := by
  unfold tallyAfter
  by_cases hf : s.FaultSeen
  · rw [if_pos ((faultSeen_iff s).mp hf), h8 hf]
    rfl
  · have hd : s.errors.detected = false := Bool.eq_false_iff.mpr (mt (faultSeen_iff s).mpr hf)
    rw [hd, if_neg Bool.false_ne_true, h.resolve_right hf, h1 hf]
    rfl

theorem participates_iff (l : LinkState) : l.participates = true ↔
    l = .listening ∨ l = .proving ∨ l = .joined ∨ l = .leaving := by cases l <;> decide

/-! ## An accepted frame (R46) -/

/-- R58 to R62: the link decision carried out, without its events. -/
def State.linked (s : State) : LinkVerdict → State
  | .stays => s
  | .counts =>
    let counted := { s with membership := { s.membership with listeningCount := s.membership.listeningCount + 1 } }
    if counted.provingDue then counted.becomeProving else counted
  | .joins => s.setLink .joined
  | .refused r => { s with membership := { s.membership with lastRefusal := some r } }.detachBlocks

/-- R58 to R62: the events of the link decision. -/
def State.linkEvents (s : State) : LinkVerdict → List StationEvent
  | .stays => []
  | .counts =>
    if { s with membership := { s.membership with listeningCount := s.membership.listeningCount + 1 } : State }.provingDue then
      [.linkChanged .proving] else []
  | .joins => [.linkChanged .joined]
  | .refused r => [.joinRefused r, .linkChanged .detached]

/-- R119: the claims a refused join gives up. -/
def State.linkAbandons (s : State) : LinkVerdict → List StationEvent
  | .refused _ => s.abandonEvents
  | .stays | .counts | .joins => []

theorem applyLink_linked (s : State) (v : LinkVerdict) (m c : List StationEvent) :
    s.applyLink v m c = (s.linked v).recordGroups (m ++ s.linkEvents v) (c ++ s.linkAbandons v) := by
  cases v with
  | stays =>
    unfold State.linkEvents State.linkAbandons
    rw [List.append_nil, List.append_nil]
    rfl
  | counts =>
    unfold State.applyLink State.linked State.linkEvents State.linkAbandons
    dsimp only
    rw [List.append_nil]
    split
    · rfl
    · rw [List.append_nil]
  | joins =>
    unfold State.linkAbandons
    rw [List.append_nil]
    rfl
  | refused r => rfl

section
variable (r : State)

/-- R46: the state an accepted frame leaves, without the events of its end. -/
def State.landed : State := r.accepting.held.linked r.linkVerdict

/-- R113, R119: the events of the claim unit at an accepted frame. -/
def State.givenUpClaims : List StationEvent :=
  r.accepting.acceptBlocks.expiredLines.map .abandoned ++ r.accepting.held.linkAbandons r.linkVerdict

/-- R71, R65, R56: the events of the membership unit at an accepted frame, after that of the level. -/
def State.memberEvents : List StationEvent := r.rosterEvents ++ r.accepting.held.linkEvents r.linkVerdict

theorem accepting_config : r.accepting.config = r.config := by rw [accepting_eq]; rfl

theorem accepting_verdict : r.accepting.linkVerdict = r.linkVerdict := by rw [accepting_eq]; rfl

theorem accepting_rosterEvents : r.accepting.rosterEvents = r.rosterEvents := by rw [accepting_eq]; rfl

theorem accepting_frameNumber : r.accepting.image.frameNumber = r.image.frameNumber + 1 := by rw [accepting_eq]

theorem accepting_claims : r.accepting.claims = r.claims := by rw [accepting_eq]; rfl

theorem accepting_dispatch : r.accepting.dispatch = r.dispatch := by rw [accepting_eq]; rfl

theorem accepting_sources : r.accepting.sources = r.sources := by rw [accepting_eq]; rfl

/-- What the hold limit leaves as the blocks made it. -/
theorem held_eq (s : State) : s.held = { s.acceptBlocks with claims := s.held.claims, dispatch := s.held.dispatch } := by
  unfold State.held
  rw [abandonAll_eq]

theorem held_membership : r.accepting.held.membership = { r.membership with
    tally := r.membership.tally - 1
    level := levelAfter r.membership.level (r.membership.tally - 1)
    events := recordedAfter r.membership.events (r.image.frameNumber + 1)
      (if levelAfter r.membership.level (r.membership.tally - 1) = r.membership.level then []
        else [.levelChanged (levelAfter r.membership.level (r.membership.tally - 1))])
    roster := Table.of r.rosterAfter, rosterBaseline := false } := by
  rw [held_eq]
  dsimp only
  rw [acceptBlocks_membership, accepting_eq]
  by_cases h : levelAfter r.membership.level (r.membership.tally - 1) = r.membership.level
  · simp only [if_pos h]
    rfl
  · simp only [if_neg h]
    rfl

theorem acceptBlocks_frameNumber (s : State) : s.acceptBlocks.image.frameNumber = s.image.frameNumber := by
  dsimp only [State.acceptBlocks]

theorem held_frameNumber : r.accepting.held.image.frameNumber = r.image.frameNumber + 1 := by
  rw [held_eq]
  dsimp only
  rw [acceptBlocks_frameNumber, accepting_frameNumber]

/-- R65: the entry to DETACHED but its events, as one update. -/
theorem detachBlocks_eq (s : State) : s.detachBlocks = { s with
    line := { s.line.idle with lastAcceptedPlan := .silent }
    contention := { s.contention with offered := none }
    membership := { s.membership.emptyRoster with
      link := .detached, listeningCount := 0, helloKey := none, remembered := none }
    sources := Table.of fun i => s.sources[i].clear
    image := s.image.emptied
    claims := .reset
    sender := s.handBackOffered.sender.cancelAll
    dispatch := s.dispatch.detach } := by
  unfold State.detachBlocks
  rw [handBackOffered_parts]
  rfl

theorem linked_refused_eq (s : State) (reason : JoinRefusal) : s.linked (.refused reason) =
    { s with membership := { s.membership with lastRefusal := some reason } }.detachBlocks := rfl

theorem linked_refused (s : State) (reason : JoinRefusal) : (s.linked (.refused reason)).membership.link = .detached := by
  rw [linked_refused_eq, detachBlocks_eq]

theorem linked_frameNumber (s : State) (v : LinkVerdict) : (s.linked v).image.frameNumber = s.image.frameNumber := by
  cases v with
  | stays => rfl
  | counts => unfold State.linked; dsimp only; split <;> rfl
  | joins => rfl
  | refused reason => rw [linked_refused_eq, detachBlocks_eq]; rfl

theorem linked_events (s : State) (v : LinkVerdict) : (s.linked v).membership.events = s.membership.events := by
  cases v with
  | stays => rfl
  | counts => unfold State.linked; dsimp only; split <;> rfl
  | joins => rfl
  | refused reason => rw [linked_refused_eq, detachBlocks_eq]; rfl

theorem linked_tally (s : State) (v : LinkVerdict) : (s.linked v).membership.tally = s.membership.tally ∧
    (s.linked v).membership.level = s.membership.level := by
  cases v with
  | stays => exact ⟨rfl, rfl⟩
  | counts => unfold State.linked; dsimp only; split <;> exact ⟨rfl, rfl⟩
  | joins => exact ⟨rfl, rfl⟩
  | refused reason => rw [linked_refused_eq, detachBlocks_eq]; exact ⟨rfl, rfl⟩

theorem landed_tally : r.landed.membership.tally = r.membership.tally - 1 ∧
    r.landed.membership.level = levelAfter r.membership.level (r.membership.tally - 1) := by
  obtain ⟨htally, hlevel⟩ := linked_tally r.accepting.held r.linkVerdict
  exact ⟨htally.trans (by rw [held_membership]), hlevel.trans (by rw [held_membership])⟩

/-- A link decision that refuses nothing changes the membership unit alone. -/
theorem linked_parts (s : State) {v : LinkVerdict} (hv : ∀ reason, v ≠ .refused reason) :
    s.linked v = { s with membership := (s.linked v).membership, freeIndex := (s.linked v).freeIndex } ∧
    (s.linked v).membership.roster = s.membership.roster ∧
    (s.linked v).membership.rosterBaseline = s.membership.rosterBaseline := by
  cases v with
  | stays => exact ⟨rfl, rfl, rfl⟩
  | counts => unfold State.linked; dsimp only; split <;> exact ⟨rfl, rfl, rfl⟩
  | joins => exact ⟨rfl, rfl, rfl⟩
  | refused reason => exact absurd rfl (hv reason)

/-- R46: the blocks' events in their two groups. -/
theorem accepted_recorded : ∃ n ev, r.accepting.acceptFrame =
      { r.landed with freeIndex := n, membership := { r.landed.membership with events := ev } } ∧
    RecordsGroups r.accepting.held.membership.events ev (r.image.frameNumber + 1) r.memberEvents r.givenUpClaims := by
  have hmember : ∀ e ∈ r.memberEvents, e.ofClaimUnit = false := by
    intro e he
    obtain he | he := List.mem_append.mp he
    · unfold State.rosterEvents at he
      split at he
      · obtain ⟨n, -, hn⟩ := List.mem_filterMap.mp he
        split_ifs at hn <;> (obtain rfl := Option.some.inj hn; rfl)
      · cases he
    · unfold State.linkEvents at he
      split at he
      · cases he
      · split at he
        · rw [List.mem_singleton.mp he]; rfl
        · cases he
      · rw [List.mem_singleton.mp he]; rfl
      · obtain rfl | he := List.mem_cons.mp he
        · rfl
        · rw [List.mem_singleton.mp he]; rfl
  have hclaim : ∀ e ∈ r.givenUpClaims, e.ofClaimUnit = true := by
    intro e he
    obtain he | he := List.mem_append.mp he
    · obtain ⟨k, -, rfl⟩ := List.mem_map.mp he
      rfl
    · unfold State.linkAbandons at he
      split at he
      · exact abandonEvents_ofClaimUnit _ e he
      all_goals cases he
  have hframe : r.accepting.acceptFrame = r.landed.recordGroups r.memberEvents r.givenUpClaims := by
    rw [acceptFrame_eq, applyLink_linked, accepting_verdict, accepting_rosterEvents]
    rfl
  have hgroups := recordsGroups_recordGroups r.landed hmember hclaim
  have hevents : r.landed.membership.events = r.accepting.held.membership.events := linked_events _ _
  have hnumber : r.landed.image.frameNumber = r.image.frameNumber + 1 := (linked_frameNumber _ _).trans (held_frameNumber r)
  rw [hevents, hnumber] at hgroups
  refine ⟨(r.landed.recordGroups r.memberEvents r.givenUpClaims).freeIndex, _, ?_, hgroups⟩
  rw [hframe, recordGroups_eq]

theorem tallyOk_le {r : State} (h : r.TallyOk) : r.membership.tally ≤ 255 := by
  unfold State.TallyOk tallyInRange at h
  split at h <;> (have := of_decide_eq_true h; omega)

end

/-- R46: an accepted frame's end, as one step. -/
theorem accepted_exec {s r : State} (h : s.AtVerdict r) (hf : ¬ r.FaultSeen) (ht : r.TallyOk) :
    ∃ n ev, exec (.frameEnd .recessive) s =
        .next (settle s { r.landed with freeIndex := n, membership := { r.landed.membership with events := ev } }) ∧
      RecordsGroups r.accepting.held.membership.events ev (r.image.frameNumber + 1) r.memberEvents r.givenUpClaims := by
  obtain ⟨n, ev, hframe, hgroups⟩ := accepted_recorded r
  refine ⟨n, ev, ?_, hgroups⟩
  have hd : r.errors.detected = false := Bool.eq_false_iff.mpr (mt (faultSeen_iff r).mpr hf)
  have hdue : ¬ r.accepting.acceptFrame.withdrawalDue = true := by
    rw [withdrawalDue_iff, hframe]
    rintro ⟨htally, -⟩
    have hle := tallyOk_le ht
    have hlanded : 255 ≤ r.landed.membership.tally := htally
    rw [(landed_tally r).1] at hlanded
    omega
  rw [atVerdict_settled h, frameEndStep_accepted r hd, State.withdrawIfDue, if_neg hdue, hframe]

end Sys2Proof.Machine

namespace Sys2Proof

open Machine

/-- Settles O50: the verdict beat counted, the frame dropped, and withdrawal where it is due. -/
theorem unacceptedFrameEndCountsAndDropsItsWinners : Obligations.UnacceptedFrameEndCountsAndDropsItsWinners := by
  refine ⟨fun s r l hr hl => ⟨verdictDrive r.membership.link r.membership.level r.errors.detected, r.claims.dropWon,
    (roundOrder r.contention.winners).foldl Sender.settleVoided r.sender, verdictLevel r, claimsDropped_dropWon _,
    voided_settled _ _, fun tally h8 h1 => ?_⟩, fun s l hs hn => ?_⟩
  · rw [atVerdict_settled hr, frameEndStep_refused hl, tallyAfter_refused hl h8 h1, setTally_tallied]
    have hle : tally ≤ 255 := by
      by_cases hf : r.FaultSeen
      · rw [h8 hf]
        exact Nat.min_le_left _ _
      · rw [h1 hf]
        exact Nat.min_le_left _ _
    have hdue : (State.dropFrame { r.verdictTaken l with membership := (r.verdictTaken l).tallied tally }).withdrawalDue = true ↔
        tally = 255 ∧ (r.membership.link = .listening ∨ r.membership.link = .proving ∨ r.membership.link = .joined ∨
          r.membership.link = .leaving) := by
      rw [withdrawalDue_iff, participates_iff]
      exact and_congr_left' (show 255 ≤ tally ↔ tally = 255 by omega)
    rw [State.withdrawIfDue, if_congr hdue rfl rfl]
    rfl
  · have hself : s.settleRound = s := settleRound_self (hn.imp_right And.right)
    have hnot : ¬ s.atPhase .verdict = true := by
      rw [atPhase_iff, not_and_or]
      exact hn.imp_right And.left
    rw [exec_frameEnd, hself, if_neg hnot, complete_self hs]

end Sys2Proof
end

section
/-! SUPPORT. The link state and the events after an accepted frame (chapters 3, 4 and 7). -/

namespace Sys2Proof.Machine

open Sys2Proof

/-! ## The link decision (R58 to R64) -/

section
variable (r : State)

/-- R61, R62: a HELLO with the own number and a key that is not the own. -/
theorem twinSeen_iff : r.twinSeen = true ↔ ∃ w ∈ r.contention.winners,
    w.kind = .hello ∧ w.station = r.straps.stationNumber ∧ r.membership.helloKey ≠ some w.key := by
  simp [State.twinSeen, and_assoc]

theorem helloWon_iff : r.helloWon = true ↔ ∃ w ∈ r.contention.winners, w.own = some .hello := by
  simp [State.helloWon]

variable {r}

theorem linkVerdict_listening (h : r.membership.link = .listening) : r.linkVerdict =
    if r.line.samples.roster[r.straps.stationNumber].low then .refused .numberTaken else .counts := by
  rw [State.linkVerdict, h]

theorem linkVerdict_proving (h : r.membership.link = .proving) : r.linkVerdict =
    if r.twinSeen then .refused .twin else if r.helloWon then .joins else .stays := by
  rw [State.linkVerdict, h]

theorem linkVerdict_joined (h : r.membership.link = .joined) : r.linkVerdict =
    if r.twinSeen then .refused .twin else .stays := by
  rw [State.linkVerdict, h]

theorem linkVerdict_leaving (h : r.membership.link = .leaving) : r.linkVerdict = .stays := by rw [State.linkVerdict, h]

theorem linkVerdict_counts_link (h : r.linkVerdict = .counts) : r.membership.link = .listening := by
  unfold State.linkVerdict at h
  split at h
  · assumption
  all_goals (try split_ifs at h) <;> cases h

theorem linkVerdict_refused_link {reason : JoinRefusal} (h : r.linkVerdict = .refused reason) :
    r.membership.link ≠ .detached := by
  intro hl
  rw [State.linkVerdict, hl] at h
  cases h

theorem linkVerdict_joins_link (h : r.linkVerdict = .joins) : r.membership.link = .proving := by
  unfold State.linkVerdict at h
  split at h
  case h_2 => assumption
  all_goals (try split_ifs at h) <;> cases h

end

/-! ## The link decision carried out -/

section
variable {s : State} {v : LinkVerdict}

theorem linked_stays (s : State) : s.linked .stays = s := rfl

theorem linked_joins (s : State) : (s.linked .joins).membership = { s.membership with link := .joined } := rfl

/-- R60: the first accepted frame of LISTENING is counted. -/
theorem linked_counts_first (hc : s.membership.listeningCount = 0) : (s.linked .counts).membership =
    { s.membership with listeningCount := 1 } := by
  have hdue : ¬ ({ s with membership := { s.membership with listeningCount := s.membership.listeningCount + 1 } } : State
      ).provingDue = true := by
    rw [provingDue_iff]
    rintro ⟨-, h⟩
    have h : 2 ≤ s.membership.listeningCount + 1 := h
    omega
  unfold State.linked
  dsimp only
  rw [if_neg hdue, hc]

/-- R60: the second one makes the station PROVING. -/
theorem linked_counts_again (hl : s.membership.link = .listening) (hc : 1 ≤ s.membership.listeningCount) :
    ∃ key, (s.linked .counts).membership = { s.membership with
      link := .proving, listeningCount := s.membership.listeningCount + 1, keyGenerator := key, helloKey := some key } := by
  have hdue : ({ s with membership := { s.membership with listeningCount := s.membership.listeningCount + 1 } } : State
      ).provingDue = true := (provingDue_iff _).mpr ⟨hl, Nat.succ_le_succ hc⟩
  unfold State.linked
  dsimp only
  rw [if_pos hdue]
  exact ⟨_, rfl⟩

theorem linked_refused_membership (s : State) (reason : JoinRefusal) : (s.linked (.refused reason)).membership =
    { s.membership with
      link := .detached, listeningCount := 0, helloKey := none, remembered := none, lastRefusal := some reason
      roster := Table.of fun _ => ⟨false, 0⟩, rosterBaseline := true } := by
  rw [linked_refused_eq, detachBlocks_eq]
  rfl

/-- R60: a counted frame ends in one of two ways. -/
theorem linked_counts_cases (hl : s.membership.link = .listening) :
    (s.linked .counts).membership = { s.membership with listeningCount := 1 } ∨
    ∃ key, (s.linked .counts).membership = { s.membership with
      link := .proving, listeningCount := s.membership.listeningCount + 1, keyGenerator := key, helloKey := some key } := by
  obtain hc | hc := Nat.eq_zero_or_pos s.membership.listeningCount
  · exact .inl (linked_counts_first hc)
  · exact .inr (linked_counts_again hl hc)

/-- A station that a link decision makes DETACHED has had its join refused. -/
theorem linked_detached (hv : v = .counts → s.membership.link = .listening)
    (h : (s.linked v).membership.link = .detached) (hm : s.membership.link ≠ .detached) : ∃ reason, v = .refused reason := by
  cases v with
  | stays => exact absurd h hm
  | joins => cases h
  | refused reason => exact ⟨reason, rfl⟩
  | counts =>
    obtain hc | ⟨key, hc⟩ := linked_counts_cases (hv rfl) <;> rw [hc] at h
    · exact absurd h hm
    · cases h

theorem linked_onLine (h : (s.linked v).membership.link ≠ .detached) (reason : JoinRefusal) : v ≠ .refused reason := by
  rintro rfl
  exact h (linked_refused s reason)

/-- A station that stays on the line keeps what its last refusal and a stall left. -/
theorem linked_memory (hv : v = .counts → s.membership.link = .listening)
    (h : (s.linked v).membership.link ≠ .detached) :
    (s.linked v).membership.lastRefusal = s.membership.lastRefusal ∧
    (s.linked v).membership.remembered = s.membership.remembered := by
  cases v with
  | stays => exact ⟨rfl, rfl⟩
  | joins => exact ⟨rfl, rfl⟩
  | refused reason => exact absurd rfl (linked_onLine h reason)
  | counts => obtain hc | ⟨key, hc⟩ := linked_counts_cases (hv rfl) <;> rw [hc] <;> exact ⟨rfl, rfl⟩

/-- R58, R60: the listening count and the HELLO key are LISTENING's. -/
theorem linked_count_key (hv : v = .counts → s.membership.link = .listening) (hl : s.membership.link ≠ .listening)
    (h : (s.linked v).membership.link ≠ .detached) :
    (s.linked v).membership.listeningCount = s.membership.listeningCount ∧
    (s.linked v).membership.helloKey = s.membership.helloKey := by
  cases v with
  | stays => exact ⟨rfl, rfl⟩
  | joins => exact ⟨rfl, rfl⟩
  | refused reason => exact absurd rfl (linked_onLine h reason)
  | counts => exact absurd (hv rfl) hl

/-- R60: the key generator is read at the entry to PROVING only. -/
theorem linked_generator (hv : v = .counts → s.membership.link = .listening)
    (h : (s.linked v).membership.link ≠ .proving ∨ s.membership.link = .proving) :
    (s.linked v).membership.keyGenerator = s.membership.keyGenerator := by
  cases v with
  | stays => rfl
  | joins => rfl
  | refused reason => rw [linked_refused_membership]
  | counts =>
    obtain hc | ⟨key, hc⟩ := linked_counts_cases (hv rfl)
    · rw [hc]
    · obtain h | h := h
      · rw [hc] at h
        exact absurd rfl h
      · rw [hv rfl] at h
        cases h

/-- R56, R65: the events of a link decision, by the change it makes. -/
theorem linkEvents_eq (hc : v = .counts → s.membership.link = .listening) (hj : v = .joins → s.membership.link = .proving)
    (hd : ∀ reason, v = .refused reason → s.membership.link ≠ .detached) : s.linkEvents v =
    (if (s.linked v).membership.link = .detached ∧ s.membership.link ≠ .detached then
      ((s.linked v).membership.lastRefusal.map StationEvent.joinRefused).toList else []) ++
    if (s.linked v).membership.link = s.membership.link then []
      else [StationEvent.linkChanged (s.linked v).membership.link] := by
  cases v with
  | stays =>
    rw [linked_stays, if_neg fun h => h.2 h.1, if_pos rfl]
    rfl
  | joins =>
    rw [linked_joins, hj rfl]
    rfl
  | refused reason =>
    rw [linked_refused_membership, if_pos ⟨rfl, hd reason rfl⟩, if_neg fun e => hd reason rfl e.symm]
    rfl
  | counts =>
    unfold State.linkEvents
    dsimp only
    by_cases hl : 1 ≤ s.membership.listeningCount
    · obtain ⟨key, hm⟩ := linked_counts_again (hc rfl) hl
      rw [hm, if_pos ((provingDue_iff { s with membership := { s.membership with
        listeningCount := s.membership.listeningCount + 1 } }).mpr ⟨hc rfl, Nat.succ_le_succ hl⟩), hc rfl]
      rfl
    · have hm := linked_counts_first (s := s) (by omega)
      have hnot : ¬ ({ s with membership := { s.membership with listeningCount := s.membership.listeningCount + 1 } } : State
          ).provingDue = true := fun hp => hl (Nat.le_of_succ_le_succ ((provingDue_iff _).mp hp).2)
      rw [hm, if_neg hnot, if_neg fun e => e.2 e.1, if_pos rfl]
      rfl

end

/-! ## The other blocks after a refused join (R65) -/

theorem accept_filtered (q : SourceRun) (c : SourceConfig) (samples : SlotSamples) :
    (q.accept c samples).filtered = q.filtered := by
  unfold SourceRun.accept SourceRun.expirePulse SourceRun.release
  split
  · split
    · rfl
    · split_ifs <;> rfl
    · split
      · split_ifs <;> rfl
      · rfl
  · rfl

theorem orphanLines_map (l : List ServiceEntry) (p : ServiceEntry → Prop) [DecidablePred p]
    (hp : ∀ e, p e → e.kind = .lineServe) :
    orphanLines (l.map fun e => if p e then { e with orphaned := true } else e) = orphanLines l := by
  unfold orphanLines
  rw [List.map_map]
  refine List.map_congr_left fun e _ => ?_
  simp only [Function.comp_apply]
  by_cases h : p e
  · rw [if_pos h, if_pos (.inr (hp e h)), if_pos (.inr (hp e h))]
  · rw [if_neg h]

/-! ## Events of an accepted frame (4.6) -/

theorem RecordsGroups.of_eq {before after : List EventRecord} {frame : Word16} {m m' c c' : List StationEvent}
    (h : RecordsGroups before after frame m c) (hm : m = m') (hc : c = c') : RecordsGroups before after frame m' c' := by
  rw [← hm, ← hc]
  exact h

/-- R70: a peer is lost when its absent count passes 2. -/
theorem losesPeer_eq (r : State) (n : StationNo) : r.losesPeer n = (r.membership.roster[n].present &&
    !r.line.samples.roster[n].low && decide (2 ≤ r.membership.roster[n].absentCount)) := by
  unfold State.losesPeer RosterEntry.age
  cases r.line.samples.roster[n] with
  | dominant => simp [RosterEntry.lossDue, Level.low]
  | recessive =>
    cases hp : r.membership.roster[n].present with
    | false => rfl
    | true => simp [RosterEntry.lossDue, Level.low, Nat.succ_le_iff]

theorem rosterEvents_eq (r : State) : r.rosterEvents =
    if r.config.station.reportPeers ∧ r.membership.rosterBaseline = false then
      (List.finRange 32).flatMap fun n =>
        if !r.membership.roster[n].present && r.line.samples.roster[n].low then [StationEvent.peerJoined n]
        else if r.losesPeer n then [StationEvent.peerLost n] else []
    else [] := by
  unfold State.rosterEvents
  refine if_congr (by simp) ?_ rfl
  rw [List.filterMap_eq_flatMap_toList]
  refine congrArg (fun f => List.flatMap f (List.finRange 32)) (funext fun n => ?_)
  split_ifs <;> rfl

/-! ## What the blocks make of an accepted frame, before the link decision -/

/-- R46: an accepted frame's end as one step: the blocks' state `h` with the hold limit judged, and the link decision carried
out on it. -/
theorem accepted_step {s r : State} (hr : s.AtVerdict r) (hf : ¬ r.FaultSeen) (ht : r.TallyOk) :
    ∃ (h : State) (n : Nat) (ev : List EventRecord), h = r.accepting.held ∧
      exec (.frameEnd .recessive) s = .next (settle s { h.linked r.linkVerdict with
        freeIndex := n, membership := { (h.linked r.linkVerdict).membership with events := ev } }) ∧
      RecordsGroups h.membership.events ev (r.image.frameNumber + 1) r.memberEvents r.givenUpClaims := by
  obtain ⟨n, ev, hexec, hgroups⟩ := accepted_exec hr hf ht
  exact ⟨_, n, ev, rfl, hexec, hgroups⟩

section
variable (r : State)

theorem accepting_claimAfter (k : LineNo) : r.accepting.claimAfter k = r.claimAfter k := by rw [accepting_eq]; rfl

theorem accepting_holdLimit : r.accepting.holdLimit = r.holdLimit := by rw [State.holdLimit, accepting_config, State.holdLimit]

/-- R112, R113: the claim records after an accepted frame, before the link decision. -/
theorem accepting_held_records (k : LineNo) : r.accepting.held.claims.records[k] =
    if (r.claimAfter k).holdDue r.holdLimit = true then .idle else r.claimAfter k := by
  rw [held_records, accepting_claimAfter, accepting_holdLimit]

theorem accepting_expiredLines : r.accepting.acceptBlocks.expiredLines =
    (List.finRange 48).filter fun k => (r.claimAfter k).holdDue r.holdLimit := by
  refine List.filter_congr fun k _ => ?_
  have hl : r.accepting.acceptBlocks.holdLimit = r.holdLimit := by
    rw [State.holdLimit, acceptBlocks_config, accepting_config, State.holdLimit]
  rw [acceptBlocks_records, accepting_claimAfter, hl]

end

section
variable {h r : State} (hh : h = r.accepting.held)
include hh

/-- What the blocks leave of the membership unit. -/
theorem held_kept : h.membership.link = r.membership.link ∧ h.membership.listeningCount = r.membership.listeningCount ∧
    h.membership.helloKey = r.membership.helloKey ∧ h.membership.keyGenerator = r.membership.keyGenerator ∧
    h.membership.remembered = r.membership.remembered ∧ h.membership.lastRefusal = r.membership.lastRefusal := by
  rw [hh, held_membership]
  exact ⟨rfl, rfl, rfl, rfl, rfl, rfl⟩

theorem held_counted : h.membership.tally = r.membership.tally - 1 ∧
    h.membership.level = levelAfter r.membership.level (r.membership.tally - 1) := by
  rw [hh, held_membership]
  exact ⟨rfl, rfl⟩

theorem held_number : h.image.frameNumber = r.image.frameNumber + 1 := by rw [hh, held_frameNumber]

theorem held_sources (i : SourceNo) : h.sources[i] = r.sources[i].accept r.config.sources[i] r.line.samples := by
  have haccepting : r.accepting.line.samples = r.line.samples := by rw [accepting_eq]; rfl
  rw [hh, held_eq]
  dsimp only [State.acceptBlocks]
  rw [accepting_sources, accepting_config, haccepting]
  exact tableOf_get _ i

theorem held_line (hf : ¬ r.FaultSeen) : h.line = { r.line with
    lastAcceptedPlan := r.line.plan, beatCount := r.line.beatCount + 1, slb := .recessive, sld := .recessive
    phase := .followOn } := by
  have hclean : r.errors.detected = false := Bool.eq_false_iff.mpr (mt (faultSeen_iff r).mpr hf)
  rw [hh, held_eq]
  dsimp only
  rw [acceptBlocks_line, accepting_eq]
  unfold State.verdictTaken
  rw [hclean]
  rfl

theorem held_orphaned : orphanLines h.dispatch.inService = orphanLines r.dispatch.inService := by
  rw [hh, held_inService, orphanLines_map _ _ fun e he => he.1, accepting_dispatch]

theorem held_events : h.membership.events = recordedAfter r.membership.events (r.image.frameNumber + 1)
    (if levelAfter r.membership.level (r.membership.tally - 1) = r.membership.level then []
      else [.levelChanged (levelAfter r.membership.level (r.membership.tally - 1))]) := by
  rw [hh, held_membership]

/-- R113, R119: what an entry to DETACHED at an accepted frame gives up beyond the hold limit. -/
theorem held_engaged (k : LineNo) : h.claims.records[k].engaged =
    ((r.claimAfter k).engaged && !(r.claimAfter k).holdDue r.holdLimit) := by
  rw [hh, accepting_held_records]
  cases hd : (r.claimAfter k).holdDue r.holdLimit with
  | true => rw [if_pos rfl, Bool.not_true, Bool.and_false]; rfl
  | false => rw [if_neg Bool.false_ne_true, Bool.not_false, Bool.and_true]

end

end Sys2Proof.Machine

namespace Sys2Proof

open Machine

/-- Settles O51, by the link decision. -/
theorem acceptedFrameMovesTheLinkState : Obligations.AcceptedFrameMovesTheLinkState := by
  intro s r hr hf ht
  obtain ⟨h, n, ev, hh, hexec, -⟩ := accepted_step hr hf ht
  obtain ⟨hlink, hcount, hhello, hkey, hremembered, hrefusal⟩ := held_kept hh
  obtain ⟨htally, hlevel⟩ := linked_tally h r.linkVerdict
  obtain ⟨htally', hlevel'⟩ := held_counted hh
  have hcounts (hv : r.linkVerdict = .counts) : h.membership.link = .listening := hlink.trans (linkVerdict_counts_link hv)
  refine ⟨_, hexec, htally.trans htally', hlevel.trans hlevel', (linked_frameNumber h _).trans (held_number hh), fun hl hslot => ?_,
    fun hl hslot hc => ?_, fun hl hslot hc => ?_, fun hl htwin => ?_, fun hl hnt hw => ?_, fun hl hnt hnw => ?_,
    fun hl hnt => ?_, fun hl => ?_, fun hl hd => ?_, fun hd => ?_, fun hp => ?_, fun hd hm => ?_⟩
  · have hv := linkVerdict_listening hl
    rw [if_pos ((low_eq_true_iff _).mpr hslot)] at hv
    show (h.linked r.linkVerdict).membership.link = _ ∧ (h.linked r.linkVerdict).membership.lastRefusal = _
    rw [hv, linked_refused_membership]
    exact ⟨rfl, rfl⟩
  · have hv := linkVerdict_listening hl
    rw [if_neg (by rw [hslot]; decide)] at hv
    show (h.linked r.linkVerdict).membership.link = _ ∧ (h.linked r.linkVerdict).membership.listeningCount = _
    rw [hv, linked_counts_first (hcount.trans hc)]
    exact ⟨hlink.trans hl, rfl⟩
  · have hv := linkVerdict_listening hl
    rw [if_neg (by rw [hslot]; decide)] at hv
    obtain ⟨key, hm⟩ := linked_counts_again (hlink.trans hl) (hcount.trans hc).ge
    show (h.linked r.linkVerdict).membership.link = _ ∧ (h.linked r.linkVerdict).membership.listeningCount = _ ∧
      ∃ key, (h.linked r.linkVerdict).membership.helloKey = _ ∧ (h.linked r.linkVerdict).membership.keyGenerator = _
    rw [hv, hm]
    exact ⟨rfl, congrArg (· + 1) (hcount.trans hc), key, rfl, rfl⟩
  · have hv : r.linkVerdict = .refused .twin := by
      obtain hl | hl := hl
      · rw [linkVerdict_proving hl, if_pos ((twinSeen_iff r).mpr htwin)]
      · rw [linkVerdict_joined hl, if_pos ((twinSeen_iff r).mpr htwin)]
    show (h.linked r.linkVerdict).membership.link = _ ∧ (h.linked r.linkVerdict).membership.lastRefusal = _
    rw [hv, linked_refused_membership]
    exact ⟨rfl, rfl⟩
  · have hv := linkVerdict_proving hl
    rw [if_neg (mt (twinSeen_iff r).mp hnt), if_pos ((helloWon_iff r).mpr hw)] at hv
    show (h.linked r.linkVerdict).membership.link = _
    rw [hv, linked_joins]
  · have hv := linkVerdict_proving hl
    rw [if_neg (mt (twinSeen_iff r).mp hnt), if_neg (mt (helloWon_iff r).mp hnw)] at hv
    show (h.linked r.linkVerdict).membership.link = _
    rw [hv, linked_stays, hlink, hl]
  · have hv := linkVerdict_joined hl
    rw [if_neg (mt (twinSeen_iff r).mp hnt)] at hv
    show (h.linked r.linkVerdict).membership.link = _
    rw [hv, linked_stays, hlink, hl]
  · show (h.linked r.linkVerdict).membership.link = _
    rw [linkVerdict_leaving hl, linked_stays, hlink, hl]
  · obtain ⟨hc, hk⟩ := linked_count_key hcounts (by rw [hlink]; exact hl) hd
    exact ⟨hc.trans hcount, hk.trans hhello⟩
  · obtain ⟨href, hrem⟩ := linked_memory hcounts hd
    exact ⟨href.trans hrefusal, hrem.trans hremembered⟩
  · exact (linked_generator hcounts (by rw [hlink]; exact hp)).trans hkey
  · obtain ⟨reason, hv⟩ := linked_detached hcounts hd (by rw [hlink]; exact hm)
    have hl : h.linked r.linkVerdict = _ := (congrArg h.linked hv).trans ((linked_refused_eq h reason).trans (detachBlocks_eq _))
    have hmem : (h.linked r.linkVerdict).membership = _ :=
      (congrArg (fun v => (h.linked v).membership) hv).trans (linked_refused_membership h reason)
    refine ⟨?_, congrArg Membership.listeningCount hmem, congrArg Membership.helloKey hmem, congrArg Membership.remembered hmem,
      congrArg Membership.rosterBaseline hmem, fun m => ?_, fun i => ?_, congrArg (fun t => t.image.baseline) hl,
      fun k => ⟨?_, ?_, ?_, ?_, ?_⟩, ?_⟩
    · refine (congrArg State.line hl).trans ?_
      dsimp only
      rw [held_line hh hf]
      rfl
    · show (h.linked r.linkVerdict).membership.roster[m] = _
      rw [hmem]
      exact tableOf_get _ m
    · show (h.linked r.linkVerdict).sources[i] = _
      rw [hl]
      refine (tableOf_get _ i).trans ?_
      dsimp only
      rw [clear_eq, held_sources hh, accept_filtered]
    · show (h.linked r.linkVerdict).image.lines[k] = _
      rw [hl]
      exact tableOf_get _ k
    · show (h.linked r.linkVerdict).claims.records[k] = _
      rw [hl]
      exact tableOf_get _ k
    · show (h.linked r.linkVerdict).claims.markOwed[k] = _
      rw [hl]
      exact tableOf_get _ k
    · show (h.linked r.linkVerdict).dispatch.edgeFlags[k] = _
      rw [hl]
      exact tableOf_get _ k
    · show (h.linked r.linkVerdict).dispatch.serveFlags[k] = _
      rw [hl]
      exact tableOf_get _ k
    · refine (congrArg (fun t => t.dispatch.inService) hl).trans ?_
      dsimp only
      rw [detach_eq]
      exact held_orphaned hh

/-- Settles O52: the two groups of events, each list by its parts. -/
theorem acceptedFrameRecordsItsEvents : Obligations.AcceptedFrameRecordsItsEvents := by
  intro s r hr hf ht
  obtain ⟨h, n, ev, hh, hexec, hgroups⟩ := accepted_step hr hf ht
  obtain ⟨hlink, -⟩ := held_kept hh
  refine ⟨_, hexec, h.membership.events, held_events hh, hgroups.of_eq ?_ ?_⟩
  · have hevents := linkEvents_eq (s := h) (v := r.linkVerdict) (fun hv => hlink.trans (linkVerdict_counts_link hv))
      (fun hv => hlink.trans (linkVerdict_joins_link hv)) (fun _ hv => by rw [hlink]; exact linkVerdict_refused_link hv)
    rw [State.memberEvents, ← hh, hevents, hlink, rosterEvents_eq]
    simp only [losesPeer_eq, List.append_assoc]
    rfl
  · rw [State.givenUpClaims, ← hh, accepting_expiredLines, List.map_append]
    refine congrArg₂ (· ++ ·) (congrArg _ (List.filter_congr fun k _ => ?_)) ?_
    · cases hk : r.claims.records[k] with
      | idle => rw [claimAfter_idle r k hk]; rfl
      | contending => rw [claimAfter_contending r k hk]; rfl
      | owned m => rw [claimAfter_owned r k hk]; rfl
      | won =>
        rw [claimAfter_won r k hk]
        cases r.soleClaim k with
        | false => rfl
        | true => exact decide_eq_decide.mpr Nat.le_zero
      | releasing => rw [claimAfter_releasing r k hk]; split <;> rfl
    · by_cases hd : (h.linked r.linkVerdict).membership.link = .detached ∧ r.membership.link ≠ .detached
      · obtain ⟨reason, hv⟩ := linked_detached (fun hv => hlink.trans (linkVerdict_counts_link hv)) hd.1 (by rw [hlink]; exact hd.2)
        refine (congrArg h.linkAbandons hv).trans (.trans ?_ (congrArg (List.map StationEvent.abandoned) (if_pos hd).symm))
        refine congrArg (List.map StationEvent.abandoned) (List.filter_congr fun k _ => ?_)
        rw [held_engaged hh]
        cases hk : r.claims.records[k] with
        | idle => rw [claimAfter_idle r k hk]; rfl
        | contending => rw [claimAfter_contending r k hk]; rfl
        | owned m =>
          rw [claimAfter_owned r k hk]
          exact (decide_not.symm.trans (decide_eq_decide.mpr Nat.not_le))
        | won =>
          rw [claimAfter_won r k hk]
          cases r.soleClaim k with
          | false => rfl
          | true => exact (decide_not.symm.trans (decide_eq_decide.mpr (not_congr Nat.le_zero)))
        | releasing =>
          rw [claimAfter_releasing r k hk]
          cases r.line.plan.mark[k] <;> rfl
      · have hv (reason : JoinRefusal) : r.linkVerdict ≠ .refused reason := fun hv =>
          hd ⟨by rw [hv]; exact linked_refused h reason, linkVerdict_refused_link hv⟩
        refine .trans ?_ (congrArg (List.map StationEvent.abandoned) (if_neg hd).symm)
        unfold State.linkAbandons
        split
        · next reason e => exact absurd e (hv reason)
        all_goals rfl

end Sys2Proof
end

section
/-! SUPPORT. Roster, image, claims, deliveries and sources after an accepted frame (chapters 4 to 7 and 10). -/

namespace Sys2Proof.Machine

open Sys2Proof

theorem linked_fixed (s : State) (v : LinkVerdict) : (s.linked v).config = s.config ∧ (s.linked v).straps = s.straps ∧
    (s.linked v).port = s.port ∧ (s.linked v).pending = s.pending := by
  cases v with
  | stays => exact ⟨rfl, rfl, rfl, rfl⟩
  | counts => unfold State.linked; dsimp only; split <;> exact ⟨rfl, rfl, rfl, rfl⟩
  | joins => exact ⟨rfl, rfl, rfl, rfl⟩
  | refused reason => rw [linked_refused_eq, detachBlocks_eq]; exact ⟨rfl, rfl, rfl, rfl⟩

section
variable (s : State)

theorem acceptBlocks_fixed : s.acceptBlocks.straps = s.straps ∧ s.acceptBlocks.port = s.port ∧
    s.acceptBlocks.pending = s.pending ∧ s.acceptBlocks.contention = s.contention ∧ s.acceptBlocks.errors = s.errors ∧
    s.acceptBlocks.image.baseline = false := by
  dsimp only [State.acceptBlocks]
  exact ⟨rfl, rfl, rfl, rfl, rfl, rfl⟩

theorem abandonAll_dispatch (l : List LineNo) : (l.foldl State.abandonClaim s).dispatch.masks = s.dispatch.masks ∧
    (l.foldl State.abandonClaim s).dispatch.tokenCounter = s.dispatch.tokenCounter ∧
    (l.foldl State.abandonClaim s).dispatch.pointers = s.dispatch.pointers := by
  rw [abandonAll_eq]
  exact ⟨rfl, rfl, rfl⟩

end

section
variable (r : State)

theorem accepting_fixed : r.accepting.straps = r.straps ∧ r.accepting.port = r.port ∧ r.accepting.pending = r.pending ∧
    r.accepting.contention = r.contention := by
  rw [accepting_eq]
  exact ⟨rfl, rfl, rfl, rfl⟩

theorem accepting_errors (hf : ¬ r.FaultSeen) : r.accepting.errors = { r.errors with verdictDrive := .recessive } := by
  have hclean : r.errors.detected = false := Bool.eq_false_iff.mpr (mt (faultSeen_iff r).mpr hf)
  rw [accepting_eq]
  unfold State.verdictTaken
  dsimp only
  rw [hclean, verdictDrive, Bool.false_and, Bool.false_and]
  exact congrArg (fun b => { r.errors with verdictDrive := .recessive, driveFault := b }) (Bool.or_false _)

/-- R94: the lines are read with the frame's own number. -/
theorem accepting_lineAfter (k : LineNo) : r.accepting.lineAfter k = { r.lineAfter k with
    lastChange := if r.image.lines[k].asserted = r.line.samples.line[k].low then r.image.lines[k].lastChange
      else r.image.frameNumber + 1 } := by
  rw [accepting_eq]
  rfl

theorem accepting_edgeRaised (k : LineNo) : r.accepting.edgeRaised k = r.edgeRaised k := by rw [accepting_eq]; rfl

theorem accepting_becomesOwned (k : LineNo) : r.accepting.becomesOwned k = r.becomesOwned k := by rw [accepting_eq]; rfl

theorem accepting_plan : r.accepting.line.plan = r.line.plan := by rw [accepting_eq]; rfl

end

section
variable {h r : State} (hh : h = r.accepting.held)
include hh

theorem held_fixed : h.config = r.config ∧ h.straps = r.straps ∧ h.port = r.port ∧ h.pending = r.pending ∧
    h.contention = r.contention := by
  obtain ⟨hstraps, hport, hpending, hcontention, -, -⟩ := acceptBlocks_fixed r.accepting
  obtain ⟨hstraps', hport', hpending', hcontention'⟩ := accepting_fixed r
  refine ⟨by rw [hh, held_config, accepting_config], ?_, ?_, ?_, ?_⟩ <;> rw [hh, held_eq] <;> dsimp only
  · rw [hstraps, hstraps']
  · rw [hport, hport']
  · rw [hpending, hpending']
  · rw [hcontention, hcontention']

theorem held_errors (hf : ¬ r.FaultSeen) : h.errors = { r.errors with verdictDrive := .recessive } := by
  obtain ⟨-, -, -, -, herrors, -⟩ := acceptBlocks_fixed r.accepting
  rw [hh, held_eq]
  dsimp only
  rw [herrors, accepting_errors r hf]

theorem held_roster (n : StationNo) : h.membership.roster[n] = r.rosterAfter n := by
  rw [hh, held_membership]
  exact tableOf_get _ n

theorem held_baselines : h.membership.rosterBaseline = false ∧ h.image.baseline = false := by
  obtain ⟨-, -, -, -, -, hbaseline⟩ := acceptBlocks_fixed r.accepting
  refine ⟨by rw [hh, held_membership], ?_⟩
  rw [hh, held_eq]
  dsimp only
  rw [hbaseline]

theorem held_lines (k : LineNo) : h.image.lines[k] = { r.lineAfter k with
    lastChange := if r.image.lines[k].asserted = r.line.samples.line[k].low then r.image.lines[k].lastChange
      else r.image.frameNumber + 1 } := by
  rw [hh, held_eq]
  dsimp only
  rw [acceptBlocks_lines, accepting_lineAfter]

theorem held_dispatch : h.dispatch.masks = r.dispatch.masks ∧ h.dispatch.tokenCounter = r.dispatch.tokenCounter ∧
    h.dispatch.pointers = r.dispatch.pointers := by
  obtain ⟨hmasks, htokens, hpointers⟩ := abandonAll_dispatch r.accepting.acceptBlocks r.accepting.acceptBlocks.expiredLines
  have hblocks : r.accepting.acceptBlocks.dispatch.masks = r.dispatch.masks ∧
      r.accepting.acceptBlocks.dispatch.tokenCounter = r.dispatch.tokenCounter ∧
      r.accepting.acceptBlocks.dispatch.pointers = r.dispatch.pointers := by
    rw [← accepting_dispatch r]
    dsimp only [State.acceptBlocks]
    exact ⟨rfl, rfl, rfl⟩
  rw [hh, State.held, hmasks, htokens, hpointers]
  exact hblocks

theorem held_claim (k : LineNo) : h.claims.records[k] =
    if (r.claimAfter k).holdDue r.holdLimit = true then .idle else r.claimAfter k := by rw [hh, accepting_held_records]

theorem held_owed (k : LineNo) : h.claims.markOwed[k] = (r.claims.markOwed[k] && r.line.plan.mark[k] == .recessive) := by
  rw [hh, held_markOwed, accepting_claims, accepting_plan]

theorem held_flag (k : LineNo) : h.dispatch.serveFlags[k] =
    if (r.claimAfter k).holdDue r.holdLimit = true then false else r.dispatch.serveFlags[k] || r.becomesOwned k := by
  rw [hh, held_serveFlags, accepting_claimAfter, accepting_holdLimit, accepting_dispatch, accepting_becomesOwned]

theorem held_edge (k : LineNo) : h.dispatch.edgeFlags[k] = (r.dispatch.edgeFlags[k] || r.edgeRaised k) := by
  rw [hh, held_edgeFlags, accepting_dispatch, accepting_edgeRaised]

theorem held_entries : h.dispatch.inService = r.dispatch.inService.map fun e =>
    if e.kind = .lineServe ∧ ∃ k ∈ r.accepting.acceptBlocks.expiredLines, e.source = lineDelivery k then
      { e with orphaned := true } else e := by
  rw [hh, held_inService, accepting_dispatch]

end

/-! ## The roster and the image (R70, R94 to R97) -/

section
variable (r : State)

theorem rosterAfter_cases (n : StationNo) : r.rosterAfter n = match r.line.samples.roster[n], r.membership.roster[n] with
    | .dominant, _ => ⟨true, 0⟩
    | .recessive, ⟨false, _⟩ => ⟨false, 0⟩
    | .recessive, ⟨true, c⟩ => if c < 2 then ⟨true, c + 1⟩ else ⟨false, 0⟩ := by
  unfold State.rosterAfter
  cases r.line.samples.roster[n] with
  | dominant => rfl
  | recessive =>
    obtain ⟨present, c⟩ := r.membership.roster[n]
    cases present with
    | false => rfl
    | true =>
      have hdue : (RosterEntry.mk true (c + 1)).lossDue = true ↔ ¬ c < 2 := by
        simp [RosterEntry.lossDue]
        omega
      refine .trans (?_ : _ = if c < 2 then (⟨true, c + 1⟩ : RosterEntry) else ⟨false, 0⟩) rfl
      change (if (RosterEntry.mk true (c + 1)).lossDue = true then RosterEntry.absent else ⟨true, c + 1⟩) = _
      by_cases hc : c < 2
      · rw [if_pos hc, if_neg (fun hd => hdue.mp hd hc)]
      · rw [if_neg hc, if_pos (hdue.mpr hc)]
        rfl

/-- R70, R72: a peer lost is one that was present and is not after the frame. -/
theorem losesPeer_iff (n : StationNo) : r.losesPeer n = true ↔
    r.membership.roster[n].present = true ∧ (r.rosterAfter n).present = false := by
  rw [losesPeer_eq]
  unfold State.rosterAfter
  obtain ⟨present, c⟩ := r.membership.roster[n]
  cases r.line.samples.roster[n] with
  | dominant => simp [RosterEntry.age, RosterEntry.lose, RosterEntry.lossDue, Level.low]
  | recessive =>
    cases present with
    | false => simp
    | true =>
      by_cases hc : 2 < c + 1
      · simp [RosterEntry.age, RosterEntry.lose, RosterEntry.lossDue, Level.low, RosterEntry.absent, hc, Nat.le_of_lt_succ hc]
      · simp [RosterEntry.age, RosterEntry.lose, RosterEntry.lossDue, Level.low, hc]
        omega

/-- A line record written as another one with its own owner. -/
theorem lineRecord_own {x y : LineRecord} (h : x = y) : x = { y with owner := x.owner } := by
  subst h
  rfl

/-- R96: a line keeps the owner decided for it unless that station is lost. -/
theorem removeOwner_of_kept {lost : StationNo → Bool} {held : Bool} {o : Owner}
    (h : ¬ ∃ n, o = .station n ∧ lost n = true) : removeOwner lost held o = o := by
  cases o with
  | nobody => rfl
  | unknown => rfl
  | station n => exact if_neg fun hl => h ⟨n, rfl, hl⟩

theorem removeOwner_of_lost {lost : StationNo → Bool} {held : Bool} {o : Owner}
    (h : ∃ n, o = .station n ∧ lost n = true) : removeOwner lost held o = if held then .unknown else .nobody := by
  obtain ⟨n, rfl, hl⟩ := h
  exact if_pos hl

end

/-! ## The claims (R110 to R113) -/

/-- R110: the sole claim of a line. -/
theorem soleClaim_iff (r : State) (k : LineNo) : r.soleClaim k = true ↔ ∃ w : WinnerRecord, w.own = some (.claim k) ∧
    (r.contention.winners.filter fun w => w.kind == .claim && w.key.toNat == k.val) = [w] := by
  change (match r.contention.winners.filter (·.claims k) with
    | [w] => w.own == some (.claim k)
    | _ => false) = true ↔ ∃ w : WinnerRecord, w.own = some (.claim k) ∧ r.contention.winners.filter (·.claims k) = [w]
  cases r.contention.winners.filter (·.claims k) with
  | nil => simp
  | cons w ws =>
    cases ws with
    | nil => simp
    | cons v vs => simp

/-- R112, R113: where the hold limit is in range, the lines given up are those whose counter reaches it. -/
theorem expires_iff {r : State} (hc : r.ConfigOk) (k : LineNo) : (r.claimAfter k).holdDue r.holdLimit = true ↔
    ∃ n, r.claims.records[k] = .owned n ∧ r.config.station.holdLimit.toNat * 8 ≤ n + 1 := by
  have hpos : ¬ r.holdLimit ≤ 0 := by
    have : r.config.station.holdLimit.toNat ≠ 0 := fun e => hc.holdLimit (BitVec.eq_of_toNat_eq e)
    unfold State.holdLimit
    omega
  cases hk : r.claims.records[k] with
  | idle => rw [claimAfter_idle r k hk]; simp [ClaimState.holdDue]
  | contending => rw [claimAfter_contending r k hk]; simp [ClaimState.holdDue]
  | owned n => 
    rw [claimAfter_owned r k hk]
    exact decide_eq_true_iff.trans ⟨fun h => ⟨n, rfl, h⟩, fun ⟨m, hm, h⟩ => by obtain rfl := ClaimState.owned.inj hm; exact h⟩
  | won => rw [claimAfter_won r k hk]; split <;> simp [ClaimState.holdDue, hpos]
  | releasing => rw [claimAfter_releasing r k hk]; split <;> simp [ClaimState.holdDue]

theorem edgeRaised_iff (r : State) (k : LineNo) : r.edgeRaised k = true ↔ r.membership.link = .joined ∧
    r.config.lines[k].role = .watch ∧ r.config.lines[k].trigger = .edge ∧ (r.lineAfter k).rose = true := by
  simp [State.edgeRaised, and_assoc]

/-! ## The sources (R86, R87) -/

section
variable {q : SourceRun} {c : SourceConfig} {samples : SlotSamples}

theorem accept_pulse (hd : q.drove = true) (hc : c.discipline = .pulse) :
    q.accept c samples = { q with pulseCount := q.pulseCount - 1 }.expirePulse c := by
  rw [SourceRun.accept, if_pos hd, hc]

theorem accept_untilServed (hd : q.drove = true) (hc : c.discipline = .untilServed) {k : LineNo} (hk : c.line = some k) :
    q.accept c samples = if samples.mark[k].low then q.release else q := by
  rw [SourceRun.accept, if_pos hd, hc, hk]

theorem accept_unmarked (hd : q.drove = true) (hc : c.discipline = .untilServed) {k : LineNo} (hk : c.line = some k)
    (hm : samples.mark[k] = .recessive) : q.accept c samples = q := by
  rw [accept_untilServed hd hc hk, hm]
  rfl

theorem accept_marked (hd : q.drove = true) (hc : c.discipline = .untilServed) {k : LineNo} (hk : c.line = some k)
    (hm : samples.mark[k] = .dominant) : q.accept c samples = q.release := by
  rw [accept_untilServed hd hc hk, hm]
  rfl

theorem accept_stays (h : q.drove = false ∨ c.discipline = .follow) : q.accept c samples = q := by
  unfold SourceRun.accept
  obtain h | h := h
  · rw [h, if_neg Bool.false_ne_true]
  · rw [h]
    exact ite_self _

end

end Sys2Proof.Machine

namespace Sys2Proof

open Machine

/-- Settles O53: the blocks by their parts, where the join is not refused. -/
theorem acceptedFrameUpdatesRosterAndImage : Obligations.AcceptedFrameUpdatesRosterAndImage := by
  intro s r hr hf ht
  obtain ⟨h, n, ev, hh, hexec, -⟩ := accepted_step hr hf ht
  obtain ⟨hconfig, hstraps, hport, hpending⟩ := linked_fixed h r.linkVerdict
  obtain ⟨hconfig', hstraps', hport', hpending', hcontention⟩ := held_fixed hh
  refine ⟨_, hexec, hconfig.trans hconfig', hstraps.trans hstraps', hport.trans hport', hpending.trans hpending', fun hd => ?_⟩
  obtain ⟨hparts, hroster, hbase⟩ := linked_parts h (linked_onLine hd)
  obtain ⟨hbaseline, himage⟩ := held_baselines hh
  have hrosterAfter (m : StationNo) : (h.linked r.linkVerdict).membership.roster[m] = r.rosterAfter m := by
    rw [hroster]
    exact held_roster hh m
  have hline : (h.linked r.linkVerdict).line = h.line := by rw [hparts]
  have herrors : (h.linked r.linkVerdict).errors = h.errors := by rw [hparts]
  refine ⟨hline.trans (held_line hh hf), (congrArg State.contention hparts).trans hcontention,
    herrors.trans (held_errors hh hf), hbase.trans hbaseline,
    (congrArg (fun t => t.image.baseline) hparts).trans himage, fun m => (hrosterAfter m).trans (rosterAfter_cases r m),
    fun k => ?_⟩
  have hlines : (h.linked r.linkVerdict).image.lines[k] = _ :=
    (congrArg (fun t => t.image.lines[k]) hparts).trans (held_lines hh k)
  have hlost (m : StationNo) : (r.membership.roster[m].present = true ∧
      (h.linked r.linkVerdict).membership.roster[m].present = false) ↔ r.losesPeer m = true := by
    rw [losesPeer_iff, hrosterAfter]
  refine ⟨?_, fun hk => ?_, fun hk => ?_⟩
  · refine (lineRecord_own hlines).trans ?_
    simp only [State.lineAfter, low_eq_beq]
    rfl
  · refine (congrArg LineRecord.owner hlines).trans ((removeOwner_of_kept ?_).trans ?_)
    · rintro ⟨m, hm, hl⟩
      rw [low_eq_beq] at hm
      exact hk ⟨m, hm, (hlost m).mpr hl⟩
    · rw [low_eq_beq]
      rfl
  · refine (congrArg LineRecord.owner hlines).trans ((removeOwner_of_lost ?_).trans ?_)
    · obtain ⟨m, hm, hl⟩ := hk
      refine ⟨m, ?_, (hlost m).mp hl⟩
      rw [low_eq_beq]
      exact hm
    · rw [low_eq_beq]

/-- Settles O54, from what the blocks leave. -/
theorem acceptedFrameSettlesClaims : Obligations.AcceptedFrameSettlesClaims := by
  intro s r hr hf ht hc
  obtain ⟨h, n, ev, hh, hexec, -⟩ := accepted_step hr hf ht
  refine ⟨_, hexec, fun hd => ?_⟩
  obtain ⟨hparts, -, -⟩ := linked_parts h (linked_onLine hd)
  obtain ⟨hmasks, htokens, hpointers⟩ := held_dispatch hh
  have hrec (k : LineNo) : (h.linked r.linkVerdict).claims.records[k] = _ :=
    (congrArg (fun t => t.claims.records[k]) hparts).trans (held_claim hh k)
  have howed (k : LineNo) : (h.linked r.linkVerdict).claims.markOwed[k] = _ :=
    (congrArg (fun t => t.claims.markOwed[k]) hparts).trans (held_owed hh k)
  have hflag (k : LineNo) : (h.linked r.linkVerdict).dispatch.serveFlags[k] = _ :=
    (congrArg (fun t => t.dispatch.serveFlags[k]) hparts).trans (held_flag hh k)
  have hedge (k : LineNo) : (h.linked r.linkVerdict).dispatch.edgeFlags[k] = _ :=
    (congrArg (fun t => t.dispatch.edgeFlags[k]) hparts).trans (held_edge hh k)
  have hrose (k : LineNo) : (h.linked r.linkVerdict).image.lines[k].rose = (r.lineAfter k).rose :=
    (congrArg (fun t => t.image.lines[k].rose) hparts).trans (congrArg LineRecord.rose (held_lines hh k))
  have hentries : (h.linked r.linkVerdict).dispatch.inService = _ :=
    (congrArg (fun t => t.dispatch.inService) hparts).trans (held_entries hh)
  have hwon {k : LineNo} (hk : r.claims.records[k] = .won) : ¬ (r.claimAfter k).holdDue r.holdLimit = true := by
    rw [expires_iff hc]
    rintro ⟨m, hm, -⟩
    rw [hk] at hm
    cases hm
  refine ⟨fun k => ⟨fun hk hs => ⟨?_, ?_⟩, fun hk hs => ?_, fun m hk hx => ?_, fun hx => ⟨?_, ?_⟩, fun hk => ?_, fun hk => ?_,
    ?_, fun hx hs => ?_, ?_⟩, (congrArg (fun t => t.dispatch.masks) hparts).trans hmasks,
    (congrArg (fun t => t.dispatch.tokenCounter) hparts).trans htokens,
    (congrArg (fun t => t.dispatch.pointers) hparts).trans hpointers, ?_, fun i e f he hf => ?_⟩
  · exact (hrec k).trans ((if_neg (hwon hk)).trans ((claimAfter_won r k hk).trans (if_pos ((soleClaim_iff r k).mpr hs))))
  · refine (hflag k).trans ((if_neg (hwon hk)).trans ?_)
    rw [(becomesOwned_iff r k).mpr ⟨hk, (soleClaim_iff r k).mpr hs⟩, Bool.or_true]
  · exact (hrec k).trans ((if_neg (hwon hk)).trans ((claimAfter_won r k hk).trans (if_neg (mt (soleClaim_iff r k).mp hs))))
  · exact (hrec k).trans ((if_neg (mt (expires_iff hc k).mp hx)).trans (claimAfter_owned r k hk))
  · exact (hrec k).trans (if_pos ((expires_iff hc k).mpr hx))
  · exact (hflag k).trans (if_pos ((expires_iff hc k).mpr hx))
  · have hx : ¬ (r.claimAfter k).holdDue r.holdLimit = true := by
      rw [expires_iff hc]
      rintro ⟨m, hm, -⟩
      rw [hk] at hm
      cases hm
    exact (hrec k).trans ((if_neg hx).trans (claimAfter_releasing r k hk))
  · refine (hrec k).trans ?_
    obtain hk | hk := hk
    · rw [claimAfter_idle r k hk, hk]
      rfl
    · rw [claimAfter_contending r k hk, hk]
      rfl
  · exact (Bool.eq_iff_iff.mp (howed k)).trans (by rw [Bool.and_eq_true, beq_iff_eq])
  · have hnot : r.becomesOwned k = false :=
      Bool.eq_false_iff.mpr fun hb => hs (((becomesOwned_iff r k).mp hb).imp_right (soleClaim_iff r k).mp)
    refine (hflag k).trans ((if_neg (mt (expires_iff hc k).mp hx)).trans ?_)
    rw [hnot, Bool.or_false]
  · refine (Bool.eq_iff_iff.mp (hedge k)).trans ?_
    rw [Bool.or_eq_true, edgeRaised_iff]
    exact or_congr_right (by rw [← hrose k]; rfl)
  · exact (congrArg List.length hentries).trans (List.length_map _)
  · have hf : (h.linked r.linkVerdict).dispatch.inService[i]? = some f := hf
    rw [hentries, List.getElem?_map, he, Option.map_some] at hf
    have hmem : (∃ k ∈ r.accepting.acceptBlocks.expiredLines, e.source = lineDelivery k) ↔
        ∃ k, e.source = lineDelivery k ∧ ∃ m, r.claims.records[k] = .owned m ∧
          r.config.station.holdLimit.toNat * 8 ≤ m + 1 := by
      simp only [accepting_expiredLines, List.mem_filter, List.mem_finRange, true_and, expires_iff hc, and_comm]
    obtain rfl := Option.some.inj hf
    split
    · next hx => exact ⟨rfl, iff_of_true rfl (.inr (hx.imp_right hmem.mp))⟩
    · next hx => exact ⟨rfl, ⟨.inl, fun ho => ho.resolve_right fun hy => hx (hy.imp_right hmem.mpr)⟩⟩

/-- Settles O55: each source by its discipline. -/
theorem acceptedFrameCountsAndReleasesSources : Obligations.AcceptedFrameCountsAndReleasesSources := by
  intro s r hr hf ht
  obtain ⟨h, n, ev, hh, hexec, -⟩ := accepted_step hr hf ht
  refine ⟨_, hexec, fun hd i => ?_⟩
  obtain ⟨hparts, -, -⟩ := linked_parts h (linked_onLine hd)
  have hsource : (h.linked r.linkVerdict).sources[i] = _ :=
    (congrArg (fun t => t.sources[i]) hparts).trans (held_sources hh i)
  refine ⟨fun hq => hsource.trans (accept_stays hq), fun hdrove hpulse hhold => ⟨fun hp => ?_, fun hp ha => ?_, fun hp ha => ?_⟩,
    fun k hdrove hserved hhold hk => ⟨fun hm => ?_, fun hm ha => ?_, fun hm ha => ?_⟩⟩ <;> refine hsource.trans ?_
  · have hdue : ¬ ({ r.sources[i] with pulseCount := r.sources[i].pulseCount - 1 } : SourceRun).pulseDue = true := by
      rw [pulseDue_iff]
      rintro ⟨-, h0⟩
      have h0 : r.sources[i].pulseCount - 1 = 0 := h0
      omega
    rw [accept_pulse hdrove hpulse, SourceRun.expirePulse, if_neg hdue]
  · have hdue : ({ r.sources[i] with pulseCount := r.sources[i].pulseCount - 1 } : SourceRun).pulseDue = true :=
      (pulseDue_iff _).mpr ⟨hhold, by show r.sources[i].pulseCount - 1 = 0; omega⟩
    rw [accept_pulse hdrove hpulse, SourceRun.expirePulse, if_pos hdue, hp]
    exact if_neg (by rw [ha]; exact Bool.false_ne_true)
  · have hdue : ({ r.sources[i] with pulseCount := r.sources[i].pulseCount - 1 } : SourceRun).pulseDue = true :=
      (pulseDue_iff _).mpr ⟨hhold, by show r.sources[i].pulseCount - 1 = 0; omega⟩
    rw [accept_pulse hdrove hpulse, SourceRun.expirePulse, if_pos hdue]
    exact if_pos ha
  · exact accept_unmarked hdrove hserved hk hm
  · rw [accept_marked hdrove hserved hk hm, SourceRun.release, if_pos hhold, ha]
    rfl
  · rw [accept_marked hdrove hserved hk hm, SourceRun.release, if_pos hhold]
    exact if_pos ha

end Sys2Proof
end

section
/-! SUPPORT. Notices at an accepted frame (chapters 8 and 9): the winners sent, the filter, and the receive queues. -/

namespace Sys2Proof.Machine

open Sys2Proof

/-! ## The filter (R138, R139) -/

/-- R138: a tag agrees with a pattern in the places its mask names. -/
theorem pattern_iff (key first second : Tag) : ((key ^^^ first) &&& second == 0) = true ↔
    ∀ i, i < 11 → second.getLsbD i = true → key.getLsbD i = first.getLsbD i := by
  rw [beq_iff_eq]
  constructor
  · intro h i hi hs
    have hbit := congrArg (·.getLsbD i) h
    simp only [BitVec.getLsbD_and, BitVec.getLsbD_xor, hs, Bool.and_true, BitVec.ofNat_eq_ofNat, BitVec.getLsbD_zero] at hbit
    simpa using hbit
  · intro h
    refine BitVec.eq_of_getLsbD_eq fun i hi => ?_
    rw [BitVec.getLsbD_and, BitVec.getLsbD_xor, BitVec.ofNat_eq_ofNat, BitVec.getLsbD_zero]
    cases hs : second.getLsbD i with
    | false => exact Bool.and_false _
    | true => rw [h i hi hs, Bool.xor_self, Bool.false_and]

theorem accepts_iff (f : FilterEntry) (w : WinnerRecord) : f.accepts w = true ↔ f.Matches w := by
  have hsender : (match f.sender with
      | none => true
      | some n => w.station == n) = true ↔ ∀ n, f.sender = some n → w.station = n := by
    cases f.sender <;> simp
  unfold FilterEntry.accepts FilterEntry.Matches
  rw [Bool.and_eq_true, Bool.and_eq_true, and_assoc]
  refine and_congr_right fun _ => ?_
  cases f.form with
  | range =>
    exact (and_congr decide_eq_true_iff hsender).trans
      ⟨fun ⟨hr, hn⟩ => ⟨fun _ => hr, fun e => (nomatch e), hn⟩, fun ⟨hr, _, hn⟩ => ⟨hr rfl, hn⟩⟩
  | pattern =>
    exact (and_congr (pattern_iff _ _ _) hsender).trans
      ⟨fun ⟨hp, hn⟩ => ⟨fun e => (nomatch e), fun _ => hp, hn⟩, fun ⟨_, hp, hn⟩ => ⟨hp rfl, hn⟩⟩

/-- R139: the action of a notice is one. -/
theorem noticeAction_eq {c : Configuration} {w : WinnerRecord} {a : FilterAction} (h : NoticeAction c w a) :
    c.noticeAction w = a := by
  unfold Configuration.noticeAction
  obtain ⟨i, hi, hfirst, rfl⟩ | ⟨hnone, rfl⟩ := h
  · have hfind : c.filters.toList.find? (·.accepts w) = some c.filters[i] := by
      refine List.find?_eq_some_iff_getElem.mpr ⟨(accepts_iff _ _).mpr hi, i.val, by simp, Vector.getElem_toList _, fun j hj => ?_⟩
      rw [Vector.getElem_toList]
      have hj16 : j < 16 := hj.trans i.isLt
      rw [Bool.not_eq_true', ← Bool.not_eq_true, accepts_iff]
      exact hfirst ⟨j, hj16⟩ hj
    rw [hfind]
  · have hfind : c.filters.toList.find? (·.accepts w) = none := by
      refine List.find?_eq_none.mpr fun f hf => ?_
      obtain ⟨i, hi, rfl⟩ := List.getElem_of_mem hf
      rw [Vector.getElem_toList, accepts_iff]
      exact hnone ⟨i, by simpa using hi⟩
    rw [hfind]

/-! ## The receive queues (R140 to R144) -/

theorem stored (q : ReceiveQueue) (policy : OverflowPolicy) (frame : Word16) (w : WinnerRecord) :
    Stored policy frame w q (q.store policy frame w) := by
  unfold ReceiveQueue.store
  refine ⟨fun hl => if_pos hl, fun hl hp => ?_, fun hl hp => ?_⟩
  · rw [if_neg (Nat.not_lt.mpr hl), hp]
  · rw [if_neg (Nat.not_lt.mpr hl), hp]
    rfl

theorem filters_iff (c : Configuration) (w : WinnerRecord) : c.filters? w = true ↔
    w.kind = .notice ∧ (w.own = none ∨ c.station.hearOwn = true) := by
  simp [Configuration.filters?]

theorem filtered (c : Configuration) (frame : Word16) (w : WinnerRecord) (q : Receiver) :
    Filtered c frame w q (q.filter c frame w) := by
  refine ⟨fun hno => ?_, fun hk ho => ⟨fun ha => ?_, fun ha => ?_, fun ha => ?_⟩⟩
  · have hnot : ¬ c.filters? w = true := by
      rw [filters_iff]
      rintro ⟨hk, ho⟩
      obtain hn | ⟨hn, hoff⟩ := hno
      · exact hn hk
      · obtain ho | ho := ho
        · exact hn ho
        · rw [hoff] at ho; cases ho
    exact if_neg hnot
  all_goals rw [Receiver.filter, if_pos ((filters_iff c w).mpr ⟨hk, ho⟩), noticeAction_eq ha]
  · exact ⟨rfl, stored _ _ _ _⟩
  · exact ⟨rfl, stored _ _ _ _⟩

/-! ## The transmit list (R128, R134) -/

theorem sent_settled (ws : List WinnerRecord) (t : Sender) :
    WonEntriesSettled TransmitEntry.afterSent ws t ((roundOrder ws).foldl Sender.settleSent t) :=
  wonEntriesSettled settleSent_settles (fun _ => rfl) ws t

section
variable {h r : State} (hh : h = r.accepting.held)
include hh

theorem held_sender : h.sender = (roundOrder r.contention.winners).foldl Sender.settleSent r.sender := by
  have hsender : r.accepting.sender = r.sender := by rw [accepting_eq]; rfl
  obtain ⟨-, -, -, hcontention⟩ := accepting_fixed r
  rw [hh, held_eq]
  dsimp only
  rw [acceptBlocks_sender, hsender, hcontention]

theorem held_receiver : h.receiver =
    r.contention.winners.foldl (Receiver.filter r.config (r.image.frameNumber + 1)) r.receiver := by
  have hreceiver : r.accepting.receiver = r.receiver := by rw [accepting_eq]; rfl
  obtain ⟨-, -, -, hcontention⟩ := accepting_fixed r
  rw [hh, held_eq]
  dsimp only
  rw [acceptBlocks_receiver, hreceiver, hcontention, accepting_config, accepting_frameNumber]

end

theorem linked_receiver (s : State) (v : LinkVerdict) : (s.linked v).receiver = s.receiver := by
  cases v with
  | stays => rfl
  | counts => unfold State.linked; dsimp only; split <;> rfl
  | joins => rfl
  | refused reason => rw [linked_refused_eq, detachBlocks_eq]

theorem handBackOffered_none {s : State} (h : s.contention.offered = none) : s.handBackOffered = s := by
  rw [State.handBackOffered, h]

theorem linked_refused_sender {s : State} (h : s.contention.offered = none) (reason : JoinRefusal) :
    (s.linked (.refused reason)).sender = s.sender.cancelAll := by
  rw [linked_refused_eq, detachBlocks_eq]
  dsimp only
  rw [handBackOffered_none (s := { s with membership := { s.membership with lastRefusal := some reason } }) h]

end Sys2Proof.Machine

namespace Sys2Proof

open Machine

/-- Settles O56: the sender by the link decision, the receiver as a run of the filter over the winners. -/
theorem acceptedFrameSendsAndStoresNotices : Obligations.AcceptedFrameSendsAndStoresNotices := by
  intro s r hr hf ht
  obtain ⟨h, n, ev, hh, hexec, -⟩ := accepted_step hr hf ht
  obtain ⟨hlink, -⟩ := held_kept hh
  obtain ⟨-, -, -, -, hcontention⟩ := held_fixed hh
  refine ⟨_, hexec, fun hd => ?_, fun hd hm ho htransmit => ?_,
    r.contention.winners.scanl (Receiver.filter r.config (r.image.frameNumber + 1)) r.receiver, List.length_scanl,
    List.head?_scanl, ?_, fun i w q q' hw hq hq' => ?_⟩
  · obtain ⟨hparts, -, -⟩ := linked_parts h (linked_onLine hd)
    have hsender : (h.linked r.linkVerdict).sender = h.sender := by rw [hparts]
    show WonEntriesSettled _ _ _ (h.linked r.linkVerdict).sender
    rw [hsender, held_sender hh]
    exact sent_settled _ _
  · obtain ⟨reason, hv⟩ := linked_detached (fun hv => hlink.trans (linkVerdict_counts_link hv)) hd (by rw [hlink]; exact hm)
    have hsender : (h.linked r.linkVerdict).sender = h.sender.cancelAll := by
      rw [hv, linked_refused_sender (by rw [hcontention]; exact ho)]
    have hin : h.sender.InOrder := by
      rw [held_sender hh]
      exact inOrder_settleSent _ ((transmitOk_iff r).mp htransmit)
    obtain ⟨-, hposting, hreports⟩ := cancelAll_spec h.sender hin.postingOnce
    refine ⟨h.sender, ?_, fun g => ?_, ?_, ?_⟩
    · rw [held_sender hh]
      exact sent_settled _ _
    · show (h.linked r.linkVerdict).sender.entries[g] = _
      rw [hsender]
      exact cancelAll_entries hin g
    · exact (congrArg Sender.posting hsender).trans hposting
    · exact (congrArg Sender.reports hsender).trans hreports
  · refine List.getLast?_scanl.trans (congrArg some ?_)
    exact ((linked_receiver h r.linkVerdict).trans (held_receiver hh)).symm
  · rw [List.getElem?_succ_scanl, hq, hw] at hq'
    obtain rfl := Option.some.inj hq'
    exact filtered _ _ _ _

end Sys2Proof
end
